-- ==== Sys2Proof/Word.lean ====
section
/-! DEFINITION. The word types of yane CORE (00_scope.md R8, R9): the 8-bit data and register
width and the 16-bit CPU address width. -/

namespace Sys2Proof

/-- An 8-bit value: a register A, X, Y, SP, a memory cell, an opcode or operand byte (R8). -/
abbrev Byte := BitVec 8

/-- A 16-bit value: the program counter, a CPU address, a PPU-side address (R8, R39). -/
abbrev Addr := BitVec 16

end Sys2Proof
end

