-- ==== Sys2Proof/Syntax.lean ====
section
/-! DEFINITION. The instructions of spec/opcode_table.json as syntax: one constructor per mnemonic of
the table, the addressing mode and its operand bytes being the constructor's argument. A pair of a
constructor and a mode that the table has is a row of the table (30_encoding.md R150, R151);
WellFormed.lean says which pairs those are. -/

namespace Sys2Proof

/-- The memory-operand addressing modes with their operand bytes (30_encoding.md R132 to R138, R140,
R141). A 16-bit operand is the assembled little-endian word (R105). -/
inductive Operand where
  /-- `imm`, R132: the operand byte itself. -/
  | imm (v : Byte)
  /-- `zp`, R133. -/
  | zp (b : Byte)
  /-- `zpx`, R134. -/
  | zpx (b : Byte)
  /-- `zpy`, R135. -/
  | zpy (b : Byte)
  /-- `abs`, R136. -/
  | abs (w : Addr)
  /-- `absx`, R137. -/
  | absx (w : Addr)
  /-- `absy`, R138. -/
  | absy (w : Addr)
  /-- `indx`, R140. -/
  | indx (b : Byte)
  /-- `indy`, R141. -/
  | indy (b : Byte)
  deriving DecidableEq, Repr

/-- The operand of a shift or rotate: the accumulator (R131) or a memory operand (R265). -/
inductive ShiftOperand where
  /-- `acc`, R131. -/
  | acc
  /-- A memory mode, R265. -/
  | mem (o : Operand)
  deriving DecidableEq, Repr

/-- The operand of JMP (43_control.md R299). -/
inductive JumpTarget where
  /-- `abs`, R136: the operand word is the target. -/
  | abs (w : Addr)
  /-- `ind`, R139: the operand word points at the target. -/
  | ind (w : Addr)
  deriving DecidableEq, Repr

/-- The instruction set (30_encoding.md R150): the 56 official mnemonics and the undefined opcode. -/
inductive Instr where
  -- loads, stores, transfers (40_load_store_transfer.md)
  | lda (o : Operand)
  | ldx (o : Operand)
  | ldy (o : Operand)
  | sta (o : Operand)
  | stx (o : Operand)
  | sty (o : Operand)
  | tax
  | tay
  | txa
  | tya
  | tsx
  | txs
  -- arithmetic (41_arithmetic.md)
  | adc (o : Operand)
  | sbc (o : Operand)
  | cmp (o : Operand)
  | cpx (o : Operand)
  | cpy (o : Operand)
  | inc (o : Operand)
  | dec (o : Operand)
  | inx
  | iny
  | dex
  | dey
  -- logic, shifts (42_logic_shift.md)
  | and (o : Operand)
  | ora (o : Operand)
  | eor (o : Operand)
  | bit (o : Operand)
  | asl (o : ShiftOperand)
  | lsr (o : ShiftOperand)
  | rol (o : ShiftOperand)
  | ror (o : ShiftOperand)
  -- control (43_control.md); `off` is the signed relative-offset byte (R142)
  | bcc (off : Byte)
  | bcs (off : Byte)
  | beq (off : Byte)
  | bne (off : Byte)
  | bmi (off : Byte)
  | bpl (off : Byte)
  | bvc (off : Byte)
  | bvs (off : Byte)
  | jmp (t : JumpTarget)
  | jsr (w : Addr)
  | rts
  -- stack, flags, system (44_stack_flag_system.md)
  | pha
  | pla
  | php
  | plp
  | clc
  | sec
  | cli
  | sei
  | clv
  | cld
  | sed
  | nop
  | brk
  | rti
  /-- Any of the 105 undefined opcode bytes, carried as the operand (R155, R340). -/
  | undefined (op : Byte)
  deriving DecidableEq, Repr

end Sys2Proof
end

