-- ==== Sys2Proof/WellFormed.lean ====
section
/-! DEFINITION. Which pairs of a mnemonic and an addressing mode exist (30_encoding.md R151), and
which bytes are undefined opcodes (R155). A well-formed instruction is one that the opcode map encodes. -/

namespace Sys2Proof

/-- Modes of LDA, ADC, SBC, CMP, AND, ORA, EOR (R151): all but ZeroPageY. -/
def Operand.isReadForm : Operand → Bool
  | .imm _ | .zp _ | .zpx _ | .abs _ | .absx _ | .absy _ | .indx _ | .indy _ => true
  | .zpy _ => false

/-- Modes of STA (R204): those of LDA without Immediate. -/
def Operand.isStaForm : Operand → Bool
  | .zp _ | .zpx _ | .abs _ | .absx _ | .absy _ | .indx _ | .indy _ => true
  | .imm _ | .zpy _ => false

/-- Modes of LDX (R202). -/
def Operand.isLdxForm : Operand → Bool
  | .imm _ | .zp _ | .zpy _ | .abs _ | .absy _ => true
  | .zpx _ | .absx _ | .indx _ | .indy _ => false

/-- Modes of LDY (R203). -/
def Operand.isLdyForm : Operand → Bool
  | .imm _ | .zp _ | .zpx _ | .abs _ | .absx _ => true
  | .zpy _ | .absy _ | .indx _ | .indy _ => false

/-- Modes of STX (R205). -/
def Operand.isStxForm : Operand → Bool
  | .zp _ | .zpy _ | .abs _ => true
  | .imm _ | .zpx _ | .absx _ | .absy _ | .indx _ | .indy _ => false

/-- Modes of STY (R206). -/
def Operand.isStyForm : Operand → Bool
  | .zp _ | .zpx _ | .abs _ => true
  | .imm _ | .zpy _ | .absx _ | .absy _ | .indx _ | .indy _ => false

/-- Modes of CPX and CPY (R236, R237). -/
def Operand.isIndexCompareForm : Operand → Bool
  | .imm _ | .zp _ | .abs _ => true
  | .zpx _ | .zpy _ | .absx _ | .absy _ | .indx _ | .indy _ => false

/-- Modes of BIT (R264). -/
def Operand.isBitForm : Operand → Bool
  | .zp _ | .abs _ => true
  | .imm _ | .zpx _ | .zpy _ | .absx _ | .absy _ | .indx _ | .indy _ => false

/-- Memory modes of the read-modify-write instructions (R238, R239, R266 to R269). -/
def Operand.isModifyForm : Operand → Bool
  | .zp _ | .zpx _ | .abs _ | .absx _ => true
  | .imm _ | .zpy _ | .absy _ | .indx _ | .indy _ => false

/-- Modes of ASL, LSR, ROL, ROR (R266 to R269). -/
def ShiftOperand.isShiftForm : ShiftOperand → Bool
  | .acc => true
  | .mem o => o.isModifyForm

/-- The 105 undefined opcode bytes, in the order of R155. -/
def undefinedOpcodes : List Byte :=
  [0x02, 0x03, 0x04, 0x07, 0x0B, 0x0C, 0x0F, 0x12, 0x13, 0x14, 0x17, 0x1A, 0x1B, 0x1C, 0x1F] ++
  [0x22, 0x23, 0x27, 0x2B, 0x2F, 0x32, 0x33, 0x34, 0x37, 0x3A, 0x3B, 0x3C, 0x3F] ++
  [0x42, 0x43, 0x44, 0x47, 0x4B, 0x4F, 0x52, 0x53, 0x54, 0x57, 0x5A, 0x5B, 0x5C, 0x5F] ++
  [0x62, 0x63, 0x64, 0x67, 0x6B, 0x6F, 0x72, 0x73, 0x74, 0x77, 0x7A, 0x7B, 0x7C, 0x7F] ++
  [0x80, 0x82, 0x83, 0x87, 0x89, 0x8B, 0x8F, 0x92, 0x93, 0x97, 0x9B, 0x9C, 0x9E, 0x9F] ++
  [0xA3, 0xA7, 0xAB, 0xAF, 0xB2, 0xB3, 0xB7, 0xBB, 0xBF] ++
  [0xC2, 0xC3, 0xC7, 0xCB, 0xCF, 0xD2, 0xD3, 0xD4, 0xD7, 0xDA, 0xDB, 0xDC, 0xDF] ++
  [0xE2, 0xE3, 0xE7, 0xEB, 0xEF, 0xF2, 0xF3, 0xF4, 0xF7, 0xFA, 0xFB, 0xFC, 0xFF]

/-- The instruction is one of the 151 defined forms or an undefined opcode of R155. -/
def Instr.wellFormed : Instr → Bool
  | .lda o | .adc o | .sbc o | .cmp o | .and o | .ora o | .eor o => o.isReadForm
  | .sta o => o.isStaForm
  | .ldx o => o.isLdxForm
  | .ldy o => o.isLdyForm
  | .stx o => o.isStxForm
  | .sty o => o.isStyForm
  | .cpx o | .cpy o => o.isIndexCompareForm
  | .bit o => o.isBitForm
  | .inc o | .dec o => o.isModifyForm
  | .asl o | .lsr o | .rol o | .ror o => o.isShiftForm
  | .tax | .tay | .txa | .tya | .tsx | .txs => true
  | .inx | .iny | .dex | .dey => true
  | .bcc _ | .bcs _ | .beq _ | .bne _ | .bmi _ | .bpl _ | .bvc _ | .bvs _ => true
  | .jmp _ | .jsr _ | .rts => true
  | .pha | .pla | .php | .plp => true
  | .clc | .sec | .cli | .sei | .clv | .cld | .sed | .nop | .brk | .rti => true
  | .undefined op => undefinedOpcodes.contains op

end Sys2Proof
end

