-- ==== Sys2Proof/Decode.lean ====
section
/-! DEFINITION. The decoder (30_encoding.md R120 to R123, R150, R155), written from the opcode matrix
of R150, and the encoder, written from the per-mnemonic table of R151. -/

namespace Sys2Proof

/-! ## Words from bytes (R9, R105) -/

/-- `{h, l} = h * 256 + l`: the 16-bit word of two bytes (R9). -/
def word (h l : Byte) : Addr := BitVec.ofNat 16 (h.toNat * 256 + l.toNat)

/-- Bits 15..8 of a word (R9). -/
def hi8 (w : Addr) : Byte := w.extractLsb' 8 8

/-- Bits 7..0 of a word (R9). -/
def lo8 (w : Addr) : Byte := w.extractLsb' 0 8

/-! ## Decoding -/

/-- An entry of the opcode map: the instruction, given the two bytes after the opcode. A form of
fewer operand bytes ignores the others (R121). -/
abbrev Template := Byte → Byte → Instr

namespace Template

/-- No operand byte: Implied and Accumulator (R130, R131). -/
def imp (i : Instr) : Template := fun _ _ => i
/-- Immediate (R132). -/
def imm (f : Operand → Instr) : Template := fun b _ => f (.imm b)
/-- ZeroPage (R133). -/
def zp (f : Operand → Instr) : Template := fun b _ => f (.zp b)
/-- ZeroPageX (R134). -/
def zpx (f : Operand → Instr) : Template := fun b _ => f (.zpx b)
/-- ZeroPageY (R135). -/
def zpy (f : Operand → Instr) : Template := fun b _ => f (.zpy b)
/-- Absolute, low byte first (R136). -/
def abs (f : Operand → Instr) : Template := fun l h => f (.abs (word h l))
/-- AbsoluteX (R137). -/
def absx (f : Operand → Instr) : Template := fun l h => f (.absx (word h l))
/-- AbsoluteY (R138). -/
def absy (f : Operand → Instr) : Template := fun l h => f (.absy (word h l))
/-- IndirectX (R140). -/
def indx (f : Operand → Instr) : Template := fun b _ => f (.indx b)
/-- IndirectY (R141). -/
def indy (f : Operand → Instr) : Template := fun b _ => f (.indy b)
/-- Relative (R142). -/
def rel (f : Byte → Instr) : Template := fun b _ => f b
/-- A bare 16-bit operand word: JMP and JSR (R299, R300). -/
def wide (f : Addr → Instr) : Template := fun l h => f (word h l)
/-- An undefined opcode byte (R155). -/
def und (op : Byte) : Template := fun _ _ => .undefined op

end Template

section OpcodeMap
open Template

/-- Row `0x` of R150's map. -/
def opcodeRow0 : List Template :=
  [imp .brk, indx .ora, und 0x02, und 0x03,
   und 0x04, zp .ora, (zp fun o => .asl (.mem o)), und 0x07,
   imp .php, imm .ora, imp (.asl .acc), und 0x0B,
   und 0x0C, abs .ora, (abs fun o => .asl (.mem o)), und 0x0F]

/-- Row `1x` of R150's map. -/
def opcodeRow1 : List Template :=
  [rel .bpl, indy .ora, und 0x12, und 0x13,
   und 0x14, zpx .ora, (zpx fun o => .asl (.mem o)), und 0x17,
   imp .clc, absy .ora, und 0x1A, und 0x1B,
   und 0x1C, absx .ora, (absx fun o => .asl (.mem o)), und 0x1F]

/-- Row `2x` of R150's map. -/
def opcodeRow2 : List Template :=
  [wide .jsr, indx .and, und 0x22, und 0x23,
   zp .bit, zp .and, (zp fun o => .rol (.mem o)), und 0x27,
   imp .plp, imm .and, imp (.rol .acc), und 0x2B,
   abs .bit, abs .and, (abs fun o => .rol (.mem o)), und 0x2F]

/-- Row `3x` of R150's map. -/
def opcodeRow3 : List Template :=
  [rel .bmi, indy .and, und 0x32, und 0x33,
   und 0x34, zpx .and, (zpx fun o => .rol (.mem o)), und 0x37,
   imp .sec, absy .and, und 0x3A, und 0x3B,
   und 0x3C, absx .and, (absx fun o => .rol (.mem o)), und 0x3F]

/-- Row `4x` of R150's map. -/
def opcodeRow4 : List Template :=
  [imp .rti, indx .eor, und 0x42, und 0x43,
   und 0x44, zp .eor, (zp fun o => .lsr (.mem o)), und 0x47,
   imp .pha, imm .eor, imp (.lsr .acc), und 0x4B,
   (wide fun w => .jmp (.abs w)), abs .eor, (abs fun o => .lsr (.mem o)), und 0x4F]

/-- Row `5x` of R150's map. -/
def opcodeRow5 : List Template :=
  [rel .bvc, indy .eor, und 0x52, und 0x53,
   und 0x54, zpx .eor, (zpx fun o => .lsr (.mem o)), und 0x57,
   imp .cli, absy .eor, und 0x5A, und 0x5B,
   und 0x5C, absx .eor, (absx fun o => .lsr (.mem o)), und 0x5F]

/-- Row `6x` of R150's map. -/
def opcodeRow6 : List Template :=
  [imp .rts, indx .adc, und 0x62, und 0x63,
   und 0x64, zp .adc, (zp fun o => .ror (.mem o)), und 0x67,
   imp .pla, imm .adc, imp (.ror .acc), und 0x6B,
   (wide fun w => .jmp (.ind w)), abs .adc, (abs fun o => .ror (.mem o)), und 0x6F]

/-- Row `7x` of R150's map. -/
def opcodeRow7 : List Template :=
  [rel .bvs, indy .adc, und 0x72, und 0x73,
   und 0x74, zpx .adc, (zpx fun o => .ror (.mem o)), und 0x77,
   imp .sei, absy .adc, und 0x7A, und 0x7B,
   und 0x7C, absx .adc, (absx fun o => .ror (.mem o)), und 0x7F]

/-- Row `8x` of R150's map. -/
def opcodeRow8 : List Template :=
  [und 0x80, indx .sta, und 0x82, und 0x83,
   zp .sty, zp .sta, zp .stx, und 0x87,
   imp .dey, und 0x89, imp .txa, und 0x8B,
   abs .sty, abs .sta, abs .stx, und 0x8F]

/-- Row `9x` of R150's map. -/
def opcodeRow9 : List Template :=
  [rel .bcc, indy .sta, und 0x92, und 0x93,
   zpx .sty, zpx .sta, zpy .stx, und 0x97,
   imp .tya, absy .sta, imp .txs, und 0x9B,
   und 0x9C, absx .sta, und 0x9E, und 0x9F]

/-- Row `Ax` of R150's map. -/
def opcodeRowA : List Template :=
  [imm .ldy, indx .lda, imm .ldx, und 0xA3,
   zp .ldy, zp .lda, zp .ldx, und 0xA7,
   imp .tay, imm .lda, imp .tax, und 0xAB,
   abs .ldy, abs .lda, abs .ldx, und 0xAF]

/-- Row `Bx` of R150's map. -/
def opcodeRowB : List Template :=
  [rel .bcs, indy .lda, und 0xB2, und 0xB3,
   zpx .ldy, zpx .lda, zpy .ldx, und 0xB7,
   imp .clv, absy .lda, imp .tsx, und 0xBB,
   absx .ldy, absx .lda, absy .ldx, und 0xBF]

/-- Row `Cx` of R150's map. -/
def opcodeRowC : List Template :=
  [imm .cpy, indx .cmp, und 0xC2, und 0xC3,
   zp .cpy, zp .cmp, zp .dec, und 0xC7,
   imp .iny, imm .cmp, imp .dex, und 0xCB,
   abs .cpy, abs .cmp, abs .dec, und 0xCF]

/-- Row `Dx` of R150's map. -/
def opcodeRowD : List Template :=
  [rel .bne, indy .cmp, und 0xD2, und 0xD3,
   und 0xD4, zpx .cmp, zpx .dec, und 0xD7,
   imp .cld, absy .cmp, und 0xDA, und 0xDB,
   und 0xDC, absx .cmp, absx .dec, und 0xDF]

/-- Row `Ex` of R150's map. -/
def opcodeRowE : List Template :=
  [imm .cpx, indx .sbc, und 0xE2, und 0xE3,
   zp .cpx, zp .sbc, zp .inc, und 0xE7,
   imp .inx, imm .sbc, imp .nop, und 0xEB,
   abs .cpx, abs .sbc, abs .inc, und 0xEF]

/-- Row `Fx` of R150's map. -/
def opcodeRowF : List Template :=
  [rel .beq, indy .sbc, und 0xF2, und 0xF3,
   und 0xF4, zpx .sbc, zpx .inc, und 0xF7,
   imp .sed, absy .sbc, und 0xFA, und 0xFB,
   und 0xFC, absx .sbc, absx .inc, und 0xFF]

/-- A row of the 256-entry opcode map (R122, R150) by the opcode byte's high nibble. -/
def opcodeRow : Nat → List Template
  | 0x0 => opcodeRow0 | 0x1 => opcodeRow1 | 0x2 => opcodeRow2 | 0x3 => opcodeRow3
  | 0x4 => opcodeRow4 | 0x5 => opcodeRow5 | 0x6 => opcodeRow6 | 0x7 => opcodeRow7
  | 0x8 => opcodeRow8 | 0x9 => opcodeRow9 | 0xA => opcodeRowA | 0xB => opcodeRowB
  | 0xC => opcodeRowC | 0xD => opcodeRowD | 0xE => opcodeRowE | 0xF => opcodeRowF
  | _ => []

end OpcodeMap

/-- The instruction of an opcode byte and the two bytes after it: the map's entry at the byte's two
nibbles (R150). -/
def decodeInstr (op b1 b2 : Byte) : Instr :=
  (opcodeRow (op.toNat / 16)).getD (op.toNat % 16) (Template.und op) b1 b2

/-- Operand bytes of a memory operand (R121). -/
def Operand.operandBytes : Operand → Nat
  | .imm _ | .zp _ | .zpx _ | .zpy _ | .indx _ | .indy _ => 1
  | .abs _ | .absx _ | .absy _ => 2

/-- Operand bytes of a shift operand (R121). -/
def ShiftOperand.operandBytes : ShiftOperand → Nat
  | .acc => 0
  | .mem o => o.operandBytes

/-- Operand bytes of an instruction: 0, 1 or 2 (R121, R123). -/
def Instr.operandBytes : Instr → Nat
  | .lda o | .ldx o | .ldy o | .sta o | .stx o | .sty o => o.operandBytes
  | .adc o | .sbc o | .cmp o | .cpx o | .cpy o | .inc o | .dec o => o.operandBytes
  | .and o | .ora o | .eor o | .bit o => o.operandBytes
  | .asl o | .lsr o | .rol o | .ror o => o.operandBytes
  | .tax | .tay | .txa | .tya | .tsx | .txs | .inx | .iny | .dex | .dey => 0
  | .bcc _ | .bcs _ | .beq _ | .bne _ | .bmi _ | .bpl _ | .bvc _ | .bvs _ => 1
  | .jmp _ | .jsr _ => 2
  | .rts | .pha | .pla | .php | .plp => 0
  | .clc | .sec | .cli | .sei | .clv | .cld | .sed | .nop | .brk | .rti => 0
  | .undefined _ => 0

/-- Length in bytes: the opcode and its operand bytes (R121). -/
def Instr.length (i : Instr) : Nat := 1 + i.operandBytes

/-- Operand bytes that follow an opcode byte: a function of the opcode byte alone (R123). -/
def operandBytesOf (op : Byte) : Nat := (decodeInstr op 0 0).operandBytes

/-- Why a byte list is not an instruction. Every opcode byte decodes, so only a shortage of bytes is
a reason. -/
inductive DecodeError where
  /-- No byte at all. -/
  | noOpcodeByte
  /-- The opcode's operand bytes are not all there. -/
  | missingOperandBytes (op : Byte)
  deriving DecidableEq, Repr

/-- The instruction at the head of a byte list and the bytes after it. -/
def decode : List Byte → Except DecodeError (Instr × List Byte)
  | [] => .error .noOpcodeByte
  | op :: rest =>
    match operandBytesOf op, rest with
    | 0, rest => .ok (decodeInstr op 0 0, rest)
    | 1, b1 :: rest => .ok (decodeInstr op b1 0, rest)
    | 2, b1 :: b2 :: rest => .ok (decodeInstr op b1 b2, rest)
    | _, _ => .error (.missingOperandBytes op)

/-- Byte `k` of an instruction word numbered as spec/opcode_table.json numbers it; bits from `nbits`
up are 0. -/
def tableByte (nbits w k : Nat) : Byte := BitVec.ofNat 8 ((w % 2 ^ nbits) >>> (8 * k))

/-- What the decoder reads from a word of the opcode table (three bytes: the longest instruction). -/
def decodeTableWord (nbits w : Nat) : Option Instr :=
  match decode [tableByte nbits w 0, tableByte nbits w 1, tableByte nbits w 2] with
  | .ok (i, _) => some i
  | .error _ => none

/-! ## Encoding -/

/-- The opcode byte of an instruction (R151); none for a mnemonic and mode that do not go together. -/
def Instr.opcode : Instr → Option Byte
  | .lda (.imm _) => some 0xA9 | .lda (.zp _) => some 0xA5 | .lda (.zpx _) => some 0xB5
  | .lda (.abs _) => some 0xAD | .lda (.absx _) => some 0xBD | .lda (.absy _) => some 0xB9
  | .lda (.indx _) => some 0xA1 | .lda (.indy _) => some 0xB1
  | .lda (.zpy _) => none
  | .ldx (.imm _) => some 0xA2 | .ldx (.zp _) => some 0xA6 | .ldx (.zpy _) => some 0xB6
  | .ldx (.abs _) => some 0xAE | .ldx (.absy _) => some 0xBE
  | .ldx (.zpx _) | .ldx (.absx _) | .ldx (.indx _) | .ldx (.indy _) => none
  | .ldy (.imm _) => some 0xA0 | .ldy (.zp _) => some 0xA4 | .ldy (.zpx _) => some 0xB4
  | .ldy (.abs _) => some 0xAC | .ldy (.absx _) => some 0xBC
  | .ldy (.zpy _) | .ldy (.absy _) | .ldy (.indx _) | .ldy (.indy _) => none
  | .sta (.zp _) => some 0x85 | .sta (.zpx _) => some 0x95 | .sta (.abs _) => some 0x8D
  | .sta (.absx _) => some 0x9D | .sta (.absy _) => some 0x99 | .sta (.indx _) => some 0x81
  | .sta (.indy _) => some 0x91
  | .sta (.imm _) | .sta (.zpy _) => none
  | .stx (.zp _) => some 0x86 | .stx (.zpy _) => some 0x96 | .stx (.abs _) => some 0x8E
  | .stx (.imm _) | .stx (.zpx _) | .stx (.absx _) | .stx (.absy _) | .stx (.indx _) | .stx (.indy _) => none
  | .sty (.zp _) => some 0x84 | .sty (.zpx _) => some 0x94 | .sty (.abs _) => some 0x8C
  | .sty (.imm _) | .sty (.zpy _) | .sty (.absx _) | .sty (.absy _) | .sty (.indx _) | .sty (.indy _) => none
  | .tax => some 0xAA
  | .tay => some 0xA8
  | .txa => some 0x8A
  | .tya => some 0x98
  | .tsx => some 0xBA
  | .txs => some 0x9A
  | .adc (.imm _) => some 0x69 | .adc (.zp _) => some 0x65 | .adc (.zpx _) => some 0x75
  | .adc (.abs _) => some 0x6D | .adc (.absx _) => some 0x7D | .adc (.absy _) => some 0x79
  | .adc (.indx _) => some 0x61 | .adc (.indy _) => some 0x71
  | .adc (.zpy _) => none
  | .sbc (.imm _) => some 0xE9 | .sbc (.zp _) => some 0xE5 | .sbc (.zpx _) => some 0xF5
  | .sbc (.abs _) => some 0xED | .sbc (.absx _) => some 0xFD | .sbc (.absy _) => some 0xF9
  | .sbc (.indx _) => some 0xE1 | .sbc (.indy _) => some 0xF1
  | .sbc (.zpy _) => none
  | .cmp (.imm _) => some 0xC9 | .cmp (.zp _) => some 0xC5 | .cmp (.zpx _) => some 0xD5
  | .cmp (.abs _) => some 0xCD | .cmp (.absx _) => some 0xDD | .cmp (.absy _) => some 0xD9
  | .cmp (.indx _) => some 0xC1 | .cmp (.indy _) => some 0xD1
  | .cmp (.zpy _) => none
  | .cpx (.imm _) => some 0xE0 | .cpx (.zp _) => some 0xE4 | .cpx (.abs _) => some 0xEC
  | .cpx (.zpx _) | .cpx (.zpy _) | .cpx (.absx _) | .cpx (.absy _) | .cpx (.indx _) | .cpx (.indy _) => none
  | .cpy (.imm _) => some 0xC0 | .cpy (.zp _) => some 0xC4 | .cpy (.abs _) => some 0xCC
  | .cpy (.zpx _) | .cpy (.zpy _) | .cpy (.absx _) | .cpy (.absy _) | .cpy (.indx _) | .cpy (.indy _) => none
  | .inc (.zp _) => some 0xE6 | .inc (.zpx _) => some 0xF6 | .inc (.abs _) => some 0xEE
  | .inc (.absx _) => some 0xFE
  | .inc (.imm _) | .inc (.zpy _) | .inc (.absy _) | .inc (.indx _) | .inc (.indy _) => none
  | .dec (.zp _) => some 0xC6 | .dec (.zpx _) => some 0xD6 | .dec (.abs _) => some 0xCE
  | .dec (.absx _) => some 0xDE
  | .dec (.imm _) | .dec (.zpy _) | .dec (.absy _) | .dec (.indx _) | .dec (.indy _) => none
  | .inx => some 0xE8
  | .iny => some 0xC8
  | .dex => some 0xCA
  | .dey => some 0x88
  | .and (.imm _) => some 0x29 | .and (.zp _) => some 0x25 | .and (.zpx _) => some 0x35
  | .and (.abs _) => some 0x2D | .and (.absx _) => some 0x3D | .and (.absy _) => some 0x39
  | .and (.indx _) => some 0x21 | .and (.indy _) => some 0x31
  | .and (.zpy _) => none
  | .ora (.imm _) => some 0x09 | .ora (.zp _) => some 0x05 | .ora (.zpx _) => some 0x15
  | .ora (.abs _) => some 0x0D | .ora (.absx _) => some 0x1D | .ora (.absy _) => some 0x19
  | .ora (.indx _) => some 0x01 | .ora (.indy _) => some 0x11
  | .ora (.zpy _) => none
  | .eor (.imm _) => some 0x49 | .eor (.zp _) => some 0x45 | .eor (.zpx _) => some 0x55
  | .eor (.abs _) => some 0x4D | .eor (.absx _) => some 0x5D | .eor (.absy _) => some 0x59
  | .eor (.indx _) => some 0x41 | .eor (.indy _) => some 0x51
  | .eor (.zpy _) => none
  | .bit (.zp _) => some 0x24 | .bit (.abs _) => some 0x2C
  | .bit (.imm _) | .bit (.zpx _) | .bit (.zpy _) | .bit (.absx _) | .bit (.absy _) | .bit (.indx _) | .bit (.indy _) => none
  | .asl .acc => some 0x0A | .asl (.mem (.zp _)) => some 0x06 | .asl (.mem (.zpx _)) => some 0x16
  | .asl (.mem (.abs _)) => some 0x0E | .asl (.mem (.absx _)) => some 0x1E
  | .asl (.mem (.imm _)) | .asl (.mem (.zpy _)) | .asl (.mem (.absy _)) | .asl (.mem (.indx _)) | .asl (.mem (.indy _)) => none
  | .lsr .acc => some 0x4A | .lsr (.mem (.zp _)) => some 0x46 | .lsr (.mem (.zpx _)) => some 0x56
  | .lsr (.mem (.abs _)) => some 0x4E | .lsr (.mem (.absx _)) => some 0x5E
  | .lsr (.mem (.imm _)) | .lsr (.mem (.zpy _)) | .lsr (.mem (.absy _)) | .lsr (.mem (.indx _)) | .lsr (.mem (.indy _)) => none
  | .rol .acc => some 0x2A | .rol (.mem (.zp _)) => some 0x26 | .rol (.mem (.zpx _)) => some 0x36
  | .rol (.mem (.abs _)) => some 0x2E | .rol (.mem (.absx _)) => some 0x3E
  | .rol (.mem (.imm _)) | .rol (.mem (.zpy _)) | .rol (.mem (.absy _)) | .rol (.mem (.indx _)) | .rol (.mem (.indy _)) => none
  | .ror .acc => some 0x6A | .ror (.mem (.zp _)) => some 0x66 | .ror (.mem (.zpx _)) => some 0x76
  | .ror (.mem (.abs _)) => some 0x6E | .ror (.mem (.absx _)) => some 0x7E
  | .ror (.mem (.imm _)) | .ror (.mem (.zpy _)) | .ror (.mem (.absy _)) | .ror (.mem (.indx _)) | .ror (.mem (.indy _)) => none
  | .bcc _ => some 0x90
  | .bcs _ => some 0xB0
  | .beq _ => some 0xF0
  | .bne _ => some 0xD0
  | .bmi _ => some 0x30
  | .bpl _ => some 0x10
  | .bvc _ => some 0x50
  | .bvs _ => some 0x70
  | .jmp (.abs _) => some 0x4C
  | .jmp (.ind _) => some 0x6C
  | .jsr _ => some 0x20
  | .rts => some 0x60
  | .pha => some 0x48
  | .pla => some 0x68
  | .php => some 0x08
  | .plp => some 0x28
  | .clc => some 0x18
  | .sec => some 0x38
  | .cli => some 0x58
  | .sei => some 0x78
  | .clv => some 0xB8
  | .cld => some 0xD8
  | .sed => some 0xF8
  | .nop => some 0xEA
  | .brk => some 0x00
  | .rti => some 0x40
  | .undefined op => if undefinedOpcodes.contains op then some op else none

/-- The operand bytes of a memory operand, in address order (R121). -/
def Operand.bytes : Operand → List Byte
  | .imm b | .zp b | .zpx b | .zpy b | .indx b | .indy b => [b]
  | .abs w | .absx w | .absy w => [lo8 w, hi8 w]

/-- The operand bytes of a shift operand. -/
def ShiftOperand.bytes : ShiftOperand → List Byte
  | .acc => []
  | .mem o => o.bytes

/-- The operand bytes of an instruction, in address order (R121). -/
def Instr.bytes : Instr → List Byte
  | .lda o | .ldx o | .ldy o | .sta o | .stx o | .sty o => o.bytes
  | .adc o | .sbc o | .cmp o | .cpx o | .cpy o | .inc o | .dec o => o.bytes
  | .and o | .ora o | .eor o | .bit o => o.bytes
  | .asl o | .lsr o | .rol o | .ror o => o.bytes
  | .tax | .tay | .txa | .tya | .tsx | .txs | .inx | .iny | .dex | .dey => []
  | .bcc b | .bcs b | .beq b | .bne b | .bmi b | .bpl b | .bvc b | .bvs b => [b]
  | .jmp (.abs w) | .jmp (.ind w) | .jsr w => [lo8 w, hi8 w]
  | .rts | .pha | .pla | .php | .plp => []
  | .clc | .sec | .cli | .sei | .clv | .cld | .sed | .nop | .brk | .rti => []
  | .undefined _ => []

/-- The bytes of an instruction in address order: opcode, then operand bytes (R121, R151). -/
def encode (i : Instr) : Option (List Byte) := i.opcode.map (· :: i.bytes)

end Sys2Proof
end

