-- ==== Sys2Proof/Machine/Memory.lean ====
section
/-! DEFINITION. A byte memory as plain data: cells in one canonical form (addresses strictly rising,
no cell equal to what an unlisted address reads as). RAM, PRG, CHR and pattern RAM are each one. -/

namespace Sys2Proof.Machine

/-- Cells by index into the buffer (R36, R37, R38, R40). -/
abbrev Memory := List Host.Cell

/-- What an index that no cell lists reads as. DESIGN CHOICE (notes/assumptions/3.md): the spec leaves
the initial contents open and suggests zero for RAM. -/
def Memory.blank : Byte := 0x00

/-- The byte at an index. -/
def Memory.read : Memory → Nat → Byte
  | [], _ => blank
  | (k, b) :: m, i => if k = i then b else Memory.read m i

/-- The memory with the byte at an index replaced; writing `blank` removes the cell. -/
def Memory.write : Memory → Nat → Byte → Memory
  | [], i, v => if v = blank then [] else [(i, v)]
  | (k, b) :: m, i, v =>
    if i < k then (if v = blank then (k, b) :: m else (i, v) :: (k, b) :: m)
    else if i = k then (if v = blank then m else (i, v) :: m)
    else (k, b) :: Memory.write m i v

/-- The canonical form: every cell's index is at least `lo`, indices rise strictly, no cell is blank. -/
def Memory.wfFrom : Nat → Memory → Bool
  | _, [] => true
  | lo, (k, b) :: m => decide (lo ≤ k) && (b != blank) && Memory.wfFrom (k + 1) m

/-- The canonical form. -/
def Memory.wf (m : Memory) : Bool := Memory.wfFrom 0 m

/-- Every cell lies inside a buffer of `size` bytes. -/
def Memory.within (size : Nat) (m : Memory) : Bool := m.all fun c => decide (c.1 < size)

end Sys2Proof.Machine
end

