-- ==== Sys2Proof/Config.lean ====
section
/-! DEFINITION. The implementation parameters of 00_scope.md R8: those a running block keeps (a
`Params` record, which State holds and no operation writes; Machine/Parameters.lean reads them and gives the
defaults), the sizes the source fixes, and the one parameter whose values the spec leaves wholly open, as an
opaque constant. -/

namespace Sys2Proof.Config

/-- Internal RAM: 2048 bytes (R8, R36). -/
def ramSize : Nat := 2048
/-- One PRG bank: 16 KiB (R8). -/
def prgBankSize : Nat := 16384
/-- One CHR bank: 8 KiB (R8; 90_conflicts.md C6). -/
def chrBankSize : Nat := 8192
/-- The PPU's two 4096-byte pattern banks (R40). -/
def patternRamSize : Nat := 8192
/-- PPU cycles per scanline (R8, R402). -/
def cyclesPerScanline : Nat := 341
/-- `PALETTE_STRIDE` (R8, R414). -/
def paletteStride : Nat := 4
/-- The reset vector (R8, R562). -/
def resetVector : Addr := 0xFFFC
/-- The BRK vector (R8, R334). -/
def brkVector : Addr := 0xFFFE

/-- The parameters fixed at construction (R8) that the running block consults. State carries them so
that every statement is about every cartridge, every status byte and every cycle table. -/
structure Params where
  /-- `prg_banks`, 0..255. -/
  prgBanks : Fin 256
  /-- `chr_banks`, 0..255. -/
  chrBanks : Fin 256
  /-- `CHR_RAM_SIZE`: size of character memory when `chr_banks = 0`. -/
  chrRamSize : Nat
  /-- Bits 6..0 of `PPU_STATUS_VALUE`; bit 7, the vblank bit, is set (R406; `Params.ppuStatus`). -/
  ppuStatusLow : BitVec 7
  /-- The base cycle count of each opcode byte, less 1: a count lies in 1..7 (R591; `Params.cycleCount`). The
  entry of an undefined opcode byte is never used (R340). -/
  cycles : Vector (Fin 7) 256
  deriving DecidableEq, Repr

/-- Size of PRG memory (R37). -/
def Params.prgSize (p : Params) : Nat := p.prgBanks.val * prgBankSize

/-- Size of CHR memory (R38). -/
def Params.chrSize (p : Params) : Nat :=
  if 0 < p.chrBanks.val then p.chrBanks.val * chrBankSize else p.chrRamSize

/-- A colour of the table of R414: three 8-bit components. -/
structure Rgb where
  r : Byte
  g : Byte
  b : Byte
  deriving DecidableEq, Repr, Inhabited

/-- `COLOR_TABLE`, the 64 colours of R414, whose values no source gives (92_eei_decisions.md D25): a
free value. DESIGN CHOICE (notes/assumptions/7.md). -/
opaque colorTable : Fin 64 → Rgb

end Sys2Proof.Config
end

