-- ==== Sys2Proof/Machine/Parameters.lean ====
section
/-! DEFINITION. The parameters of 00_scope.md R8 as the block reads them, and their default values. -/

namespace Sys2Proof.Config

/-- `PPU_STATUS_VALUE`: a byte with the vblank bit set (R406). That the vblank bit is bit 7 is PRESUMED
(notes/assumptions/5.md). -/
def Params.ppuStatus (p : Params) : Byte := 1#1 ++ p.ppuStatusLow

/-- The base cycle count of an opcode byte, 1..7 (R8, R590, R591). -/
def Params.cycleCount (p : Params) (op : Byte) : Nat := (p.cycles.get (Fin.ofNat 256 op.toNat)).val + 1

/-- The spec's default counts (R590, D3) by opcode byte, one row of R150's map a line; 0 stands at the undefined
bytes, which have none (notes/assumptions/15.md). -/
def defaultCycleRows : List Nat :=
  [7, 6, 0, 0, 0, 3, 5, 0, 3, 2, 2, 0, 0, 4, 6, 0] ++
  [2, 5, 0, 0, 0, 4, 6, 0, 2, 4, 0, 0, 0, 4, 7, 0] ++
  [6, 6, 0, 0, 3, 3, 5, 0, 4, 2, 2, 0, 4, 4, 6, 0] ++
  [2, 5, 0, 0, 0, 4, 6, 0, 2, 4, 0, 0, 0, 4, 7, 0] ++
  [6, 6, 0, 0, 0, 3, 5, 0, 3, 2, 2, 0, 3, 4, 6, 0] ++
  [2, 5, 0, 0, 0, 4, 6, 0, 2, 4, 0, 0, 0, 4, 7, 0] ++
  [6, 6, 0, 0, 0, 3, 5, 0, 4, 2, 2, 0, 5, 4, 6, 0] ++
  [2, 5, 0, 0, 0, 4, 6, 0, 2, 4, 0, 0, 0, 4, 7, 0] ++
  [0, 6, 0, 0, 3, 3, 3, 0, 2, 0, 2, 0, 4, 4, 4, 0] ++
  [2, 6, 0, 0, 4, 4, 4, 0, 2, 5, 2, 0, 0, 5, 0, 0] ++
  [2, 6, 2, 0, 3, 3, 3, 0, 2, 2, 2, 0, 4, 4, 4, 0] ++
  [2, 5, 0, 0, 4, 4, 4, 0, 2, 4, 2, 0, 4, 4, 4, 0] ++
  [2, 6, 0, 0, 3, 3, 5, 0, 2, 2, 2, 0, 4, 4, 6, 0] ++
  [2, 5, 0, 0, 0, 4, 6, 0, 2, 4, 0, 0, 0, 4, 7, 0] ++
  [2, 6, 0, 0, 3, 3, 5, 0, 2, 2, 2, 0, 4, 4, 6, 0] ++
  [2, 5, 0, 0, 0, 4, 6, 0, 2, 4, 0, 0, 0, 4, 7, 0]

/-- The default cycle table. -/
def defaultCycles : Vector (Fin 7) 256 :=
  ⟨(defaultCycleRows.map fun n => Fin.ofNat 7 (n - 1)).toArray, by
    simp only [defaultCycleRows, List.size_toArray, List.length_map, List.length_append, List.length_cons,
      List.length_nil]⟩

/-- The parameters of the machine that State.reset is. DESIGN CHOICE (notes/assumptions/4.md): two PRG
banks and one CHR bank; `CHR_RAM_SIZE`, `PPU_STATUS_VALUE` (0x80) and the cycle table are the spec's own
defaults (notes/assumptions/5.md, 8.md, 15.md). -/
def defaultParams : Params where
  prgBanks := 2
  chrBanks := 1
  chrRamSize := 0x2000
  ppuStatusLow := 0
  cycles := defaultCycles

/-- `SP_RESET`, the spec's suggested default of R8. PRESUMED (notes/assumptions/2.md). -/
def spReset : Byte := 0xFD

end Sys2Proof.Config
end

