-- ==== Sys2Proof/Machine/State.lean ====
section
/-! DEFINITION. The state of yane CORE (10_state.md R20 to R47), the reasons a step can stop, and the
state after reset (R48). INVENTORY.md lists every field with its rule. -/

namespace Sys2Proof.Machine

/-- The five status flags (R28). -/
structure Flags where
  n : Bool
  v : Bool
  z : Bool
  c : Bool
  i : Bool
  deriving DecidableEq, Repr

/-- The sticky diagnostic marks `DIAG` (R45, R502). -/
structure Diag where
  unmappedRead : Bool
  unmappedWrite : Bool
  illegalOpcode : Bool
  ppuRegUnimplemented : Bool
  ppuUnmappedRead : Bool
  deriving DecidableEq, Repr

/-- The kinds of diagnostic (R502). -/
inductive DiagKind where
  | unmappedRead
  | unmappedWrite
  | illegalOpcode
  | ppuRegUnimplemented
  | ppuUnmappedRead
  deriving DecidableEq, Repr

/-- The PPU's state (R40). -/
structure Ppu where
  /-- `cycle`, 0..340 between calls of `run()`. -/
  cycle : Nat
  /-- `scanline`, -1..260 between calls of `run()`. -/
  scanline : Int
  /-- `frame_complete`. -/
  frameComplete : Bool
  /-- `palette[0..31]`. -/
  palette : Vector Byte 32
  /-- `pattern_ram[b][k]`, held at index `4096 * b + k`. -/
  patternRam : Memory
  deriving DecidableEq, Repr

/-- `HardFault(info)` (R506). -/
inductive HardFault where
  /-- A PRG offset outside `prg_memory`, R84 and R86. -/
  | prgIndexOutOfBounds (addr : Addr) (off : Nat)
  /-- A CHR offset outside `chr_memory`, R88 and R90. -/
  | chrIndexOutOfBounds (addr : Addr) (off : Nat)
  deriving DecidableEq, Repr

/-- The machine's state: everything the spec gives the block, and the parameters it was built with. -/
structure State where
  /-- `A` (R21). -/
  a : Byte
  /-- `X` (R22). -/
  x : Byte
  /-- `Y` (R22). -/
  y : Byte
  /-- `SP` (R23). -/
  sp : Byte
  /-- `PC` (R24). -/
  pc : Addr
  /-- `N V Z C I` (R28). -/
  flags : Flags
  /-- `RAM[0..2047]` (R36). -/
  ram : Memory
  /-- `PRG[0..prg_size-1]` (R37). -/
  prg : Memory
  /-- `CHR[0..chr_size-1]` (R38). -/
  chr : Memory
  /-- The PPU's counters, flag, palette and pattern RAM (R40). -/
  ppu : Ppu
  /-- `remaining_cycles` (R43). -/
  remainingCycles : Nat
  /-- The divider phase (R44). -/
  phase : Fin 3
  /-- `DIAG` (R45). -/
  diag : Diag
  /-- `FAULT` (R46). -/
  fault : Option HardFault
  /-- The construction parameters (R8), constant while the block runs. -/
  params : Config.Params
  deriving DecidableEq, Repr

/-- Why the machine stopped. -/
inductive Fault where
  /-- The hard fault of R506: raised by a cartridge access whose translated offset lies outside its
  buffer (R84 to R90), and answered again by every later step (R46). `final` is the block's state at
  the abort, its `fault` mark set and the earlier accesses' changes kept. Safe: it is the stop that the
  spec describes. -/
  | hardFault (info : HardFault) (final : State)
  deriving DecidableEq, Repr

/-- Why the model gives an instruction no meaning. -/
inductive Refusal where
  /-- Raised by `exec` for an instruction without a meaning; no arm does so now. Safe. -/
  | notModelled (mnemonic : String)
  deriving DecidableEq, Repr

/-- What construction takes besides the parameters: the images and the open initial contents of R8
and R48, and the `PC` that is unspecified until `init()`. -/
structure Contents where
  /-- `SP_RESET`. -/
  sp : Byte
  /-- `PC` before `init()`. -/
  pc : Addr
  /-- `RAM_INIT`. -/
  ram : Memory
  /-- `PRG_IMAGE`. -/
  prg : Memory
  /-- `CHR_IMAGE`, or the unspecified content of character RAM. -/
  chr : Memory
  /-- `PALETTE_INIT`. -/
  palette : Vector Byte 32
  /-- `PATTERN_RAM_INIT`. -/
  patternRam : Memory

/-- Construction of the block: the reset table of R48 for any parameters and contents (R560). -/
def State.construct (p : Config.Params) (k : Contents) : State where
  a := 0x00
  x := 0x00
  y := 0x00
  sp := k.sp
  pc := k.pc
  flags := { n := false, v := false, z := false, c := false, i := false }
  ram := k.ram
  prg := k.prg
  chr := k.chr
  ppu := { cycle := 0, scanline := -1, frameComplete := false,
           palette := k.palette, patternRam := k.patternRam }
  remainingCycles := 0
  phase := 0
  diag := { unmappedRead := false, unmappedWrite := false, illegalOpcode := false,
            ppuRegUnimplemented := false, ppuUnmappedRead := false }
  fault := none
  params := p

/-- The open contents of the machine that State.reset is: every memory blank. DESIGN CHOICE
(notes/assumptions/1.md, 2.md, 3.md, 4.md, 6.md). -/
def Contents.blank : Contents where
  sp := Config.spReset
  pc := 0x0000
  ram := []
  prg := []
  chr := []
  palette := Vector.replicate 32 Memory.blank
  patternRam := []

/-- The machine right after reset: constructed (R48) and `init()` done (R561, G9). With a blank PRG
image the reset vector reads 0x0000, which is the `PC` that construction is given here
(notes/assumptions/1.md). -/
def State.reset : State := State.construct Config.defaultParams Contents.blank

end Sys2Proof.Machine
end

