-- ==== Sys2Proof/Machine/Access.lean ====
section
/-! DEFINITION. The named writes of State's fields, and `Access`: what a sequence of bus accesses
gives, a value and the state after it, or the hard fault that abandons it (00_scope.md R11). -/

namespace Sys2Proof.Machine

/-! ## Writes of a field -/

/-- `A <- v`. -/
def State.setA (s : State) (v : Byte) : State := { s with a := v }
/-- `X <- v`. -/
def State.setX (s : State) (v : Byte) : State := { s with x := v }
/-- `Y <- v`. -/
def State.setY (s : State) (v : Byte) : State := { s with y := v }
/-- `SP <- v`. -/
def State.setSp (s : State) (v : Byte) : State := { s with sp := v }
/-- `PC <- v`. -/
def State.setPc (s : State) (v : Addr) : State := { s with pc := v }
/-- The flags. -/
def State.setFlags (s : State) (f : Flags) : State := { s with flags := f }
/-- `RAM[i] <- v`. -/
def State.writeRam (s : State) (i : Nat) (v : Byte) : State := { s with ram := s.ram.write i v }
/-- `PRG[i] <- v`. -/
def State.writePrg (s : State) (i : Nat) (v : Byte) : State := { s with prg := s.prg.write i v }
/-- `CHR[i] <- v`. -/
def State.writeChr (s : State) (i : Nat) (v : Byte) : State := { s with chr := s.chr.write i v }
/-- `remaining_cycles <- n`. -/
def State.setRemaining (s : State) (n : Nat) : State := { s with remainingCycles := n }
/-- `phase <- p`. -/
def State.setPhase (s : State) (p : Fin 3) : State := { s with phase := p }
/-- `FAULT <- HardFault(info)`. -/
def State.setFault (s : State) (info : HardFault) : State := { s with fault := some info }

/-- The marks with one more set (R45). -/
def Diag.mark (d : Diag) : DiagKind → Diag
  | .unmappedRead => { d with unmappedRead := true }
  | .unmappedWrite => { d with unmappedWrite := true }
  | .illegalOpcode => { d with illegalOpcode := true }
  | .ppuRegUnimplemented => { d with ppuRegUnimplemented := true }
  | .ppuUnmappedRead => { d with ppuUnmappedRead := true }

/-- `diag(k)` (R501): the sticky mark is set, nothing else changes. The arguments that a log line would
carry are dropped (notes/assumptions/13.md). -/
def State.note (s : State) (k : DiagKind) : State := { s with diag := s.diag.mark k }

/-! ## Accesses -/

/-- The result of one or more bus accesses. -/
inductive Access (α : Type) where
  /-- The accesses completed. -/
  | ok (value : α) (s : State)
  /-- An access raised `HardFault(info)`; `s` is the state at the abort. -/
  | hardFault (info : HardFault) (s : State)
  deriving DecidableEq, Repr

/-- `raise HardFault(info)` (R506): `FAULT` is set and nothing after it happens. -/
def Access.raise {α : Type} (info : HardFault) (s : State) : Access α :=
  .hardFault info (s.setFault info)

/-- Goes on with the value of an access, unless it raised the hard fault. -/
def Access.andThen {α β : Type} (r : Access α) (k : α → State → Access β) : Access β :=
  match r with
  | .ok v s => k v s
  | .hardFault info s => .hardFault info s

/-- The outcome of a host-level operation made of accesses. -/
def Access.outcome (r : Access Unit) : Host.Outcome State Fault Refusal :=
  match r with
  | .ok _ s => .next s
  | .hardFault info s => .fault (.hardFault info s)

/-- The end of an instruction (R120, step 4): `remaining_cycles <- n`, unless an access of it raised the
hard fault, which abandons it (R506). -/
def Access.complete (n : Nat) (r : Access Unit) : Host.Outcome State Fault Refusal :=
  match r with
  | .ok _ s => .next (s.setRemaining n)
  | .hardFault info s => .fault (.hardFault info s)

/-- The end of an instruction without an access of its own: `remaining_cycles <- n`. -/
def finishWith (n : Nat) (s : State) : Host.Outcome State Fault Refusal := .next (s.setRemaining n)

end Sys2Proof.Machine
end

