-- ==== Sys2Proof/Machine/Bus.lean ====
section
/-! DEFINITION. The mapper translator (R60 to R66), the cartridge (R76 to R94), the PPU's register window
(R405 to R409) and the bus arbiter of both sides (R95 to R103). -/

namespace Sys2Proof.Machine

open Config (Params)

/-! ## Mapper: NROM, the only one (R66) -/

/-- `cpu_map_read(addr)` (R61). -/
def cpuMapRead (p : Params) (addr : Addr) : Option Nat :=
  if addr.toNat ≥ 0x8000 then
    some (if p.prgBanks.val > 1 then (addr &&& 0x7FFF).toNat else (addr &&& 0x3FFF).toNat)
  else none

/-- `cpu_map_write(addr)`, the same function (R62). -/
def cpuMapWrite (p : Params) (addr : Addr) : Option Nat := cpuMapRead p addr

/-- `ppu_map_read(addr)` (R63). -/
def ppuMapRead (addr : Addr) : Option Nat :=
  if addr.toNat < 0x2000 then some addr.toNat else none

/-- `ppu_map_write(addr)` (R64): only character RAM is writable. -/
def ppuMapWrite (p : Params) (addr : Addr) : Option Nat :=
  if addr.toNat < 0x2000 ∧ p.chrBanks.val = 0 then some addr.toNat else none

/-! ## Cartridge -/

/-- `Cartridge.cpu_read(addr)` (R84); `none` is "not claimed". -/
def cartridgeCpuRead (addr : Addr) (s : State) : Access (Option Byte) :=
  match cpuMapRead s.params addr with
  | none => .ok none s
  | some off =>
    if off < s.params.prgSize then .ok (some (s.prg.read off)) s
    else .raise (.prgIndexOutOfBounds addr off) s

/-- `Cartridge.cpu_write(addr, v)` (R86); the value says whether it was claimed. -/
def cartridgeCpuWrite (addr : Addr) (v : Byte) (s : State) : Access Bool :=
  match cpuMapWrite s.params addr with
  | none => .ok false s
  | some off =>
    if off < s.params.prgSize then .ok true (s.writePrg off v)
    else .raise (.prgIndexOutOfBounds addr off) s

/-- `Cartridge.ppu_read(addr)` (R88). -/
def cartridgePpuRead (addr : Addr) (s : State) : Access (Option Byte) :=
  match ppuMapRead addr with
  | none => .ok none s
  | some off =>
    if off < s.params.chrSize then .ok (some (s.chr.read off)) s
    else .raise (.chrIndexOutOfBounds addr off) s

/-- `Cartridge.ppu_write(addr, v)` (R90). -/
def cartridgePpuWrite (addr : Addr) (v : Byte) (s : State) : Access Bool :=
  match ppuMapWrite s.params addr with
  | none => .ok false s
  | some off =>
    if off < s.params.chrSize then .ok true (s.writeChr off v)
    else .raise (.chrIndexOutOfBounds addr off) s

/-! ## The PPU's register window -/

/-- `PPU.cpu_read(r)` (R405, R406): register 2 is the constant status, any other is unimplemented. -/
def ppuCpuRead (r : Nat) (s : State) : Access Byte :=
  if r = 2 then .ok s.params.ppuStatus s
  else .ok 0x00 (s.note .ppuRegUnimplemented)

/-- `PPU.cpu_write(r, v)` (R408): every write is dropped and recorded. -/
def ppuCpuWrite (_r : Nat) (_v : Byte) (s : State) : Access Unit :=
  .ok () (s.note .ppuRegUnimplemented)

/-! ## Bus arbiter -/

/-- `CpuBusRead(addr)` (R96), which is `MemRead(addr, 1)`. -/
def cpuBusRead (addr : Addr) (s : State) : Access Byte :=
  (cartridgeCpuRead addr s).andThen fun claimed s =>
    match claimed with
    | some v => .ok v s
    | none =>
      if addr.toNat < 0x2000 then .ok (s.ram.read (addr &&& 0x07FF).toNat) s
      else if addr.toNat ≤ 0x3FFF then ppuCpuRead (addr &&& 0x7).toNat s
      else .ok 0x00 (s.note .unmappedRead)

/-- `CpuBusWrite(addr, v)` (R98), which is `MemWrite(addr, 1, v)`. -/
def cpuBusWrite (addr : Addr) (v : Byte) (s : State) : Access Unit :=
  (cartridgeCpuWrite addr v s).andThen fun claimed s =>
    if claimed then .ok () s
    else if addr.toNat < 0x2000 then .ok () (s.writeRam (addr &&& 0x07FF).toNat v)
    else if addr.toNat ≤ 0x3FFF then ppuCpuWrite (addr &&& 0x7).toNat v s
    else .ok () (s.note .unmappedWrite)

/-- `PpuBusRead(addr)` (R101). -/
def ppuBusRead (addr : Addr) (s : State) : Access Byte :=
  if addr.toNat < 0x2000 then
    (cartridgePpuRead addr s).andThen fun claimed s =>
      match claimed with
      | some v => .ok v s
      | none => .ok 0x00 (s.note .ppuUnmappedRead)
  else .ok 0x00 (s.note .ppuUnmappedRead)

/-- `PpuBusWrite(addr, v)` (R102): a write that is not claimed is dropped. -/
def ppuBusWrite (addr : Addr) (v : Byte) (s : State) : Access Unit :=
  if addr.toNat < 0x2000 then (cartridgePpuWrite addr v s).andThen fun _ s => .ok () s
  else .ok () s

end Sys2Proof.Machine
end

