-- ==== Sys2Proof/Machine/Flags.lean ====
section
/-! DEFINITION. Every flag computation of the spec: the packed flag byte (R31, R32), `SetZN` (R10), the
adder (R230), compares (R234), BIT (R264), shifts and rotates (R266 to R269). -/

namespace Sys2Proof.Machine

/-- A flag as a byte, 0 or 1. -/
def bitByte (b : Bool) : Byte := if b then 1 else 0

/-- `get_flags()` (R31). -/
def Flags.pack (f : Flags) : Byte :=
  bitByte f.n ||| (bitByte f.v <<< 1) ||| (bitByte f.i <<< 5) ||| (bitByte f.z <<< 6) ||| (bitByte f.c <<< 7)

/-- `set_flags_from_byte(b)` (R32): all five flags, bits 2, 3, 4 ignored. -/
def Flags.unpack (b : Byte) : Flags where
  n := b.getLsbD 0
  v := b.getLsbD 1
  i := b.getLsbD 5
  z := b.getLsbD 6
  c := b.getLsbD 7

/-- `SetZN(v)` (R10). -/
def Flags.setZN (f : Flags) (v : Byte) : Flags := { f with z := v == 0, n := v.getLsbD 7 }

/-! ## The adder (R230) -/

/-- The exact sum `t = A + m + C`, 0 .. 511. -/
def addSum (a m : Byte) (c : Bool) : Nat := a.toNat + m.toNat + (bitByte c).toNat

/-- `r = t mod 256`. -/
def addResult (a m : Byte) (c : Bool) : Byte := BitVec.ofNat 8 (addSum a m c)

/-- The flags after `AddCore(m)`: `C` from the exact sum, `V` from the signs, `Z` and `N` from `r`. -/
def Flags.afterAdd (f : Flags) (a m : Byte) : Flags :=
  let r := addResult a m f.c
  { (f.setZN r) with
    c := decide (addSum a m f.c > 255)
    v := (a.getLsbD 7 ^^ r.getLsbD 7) && !(a.getLsbD 7 ^^ m.getLsbD 7) }

/-! ## Compare, bit test (R234, R264) -/

/-- The flags after `CompareCore(r, M)`; `V` is not written. -/
def Flags.afterCompare (f : Flags) (r m : Byte) : Flags :=
  { f with c := decide (r.toNat ≥ m.toNat), z := r == m, n := (r - m).getLsbD 7 }

/-- The flags after BIT: `Z` from `A & M`, `N` and `V` from `M`. -/
def Flags.afterBit (f : Flags) (a m : Byte) : Flags :=
  { f with z := (a &&& m) == 0, n := m.getLsbD 7, v := m.getLsbD 6 }

/-! ## Shifts and rotates (R266 to R269): the result, and the flags from the old and new value -/

/-- ASL: `(v << 1) mod 256`. -/
def aslResult (v : Byte) : Byte := v <<< 1
/-- LSR: `v >> 1`. -/
def lsrResult (v : Byte) : Byte := v >>> 1
/-- ROL: `((v << 1) | C) mod 256`, `C` the carry before. -/
def rolResult (v : Byte) (c : Bool) : Byte := (v <<< 1) ||| bitByte c
/-- ROR: `(v >> 1) | (C << 7)`, `C` the carry before. -/
def rorResult (v : Byte) (c : Bool) : Byte := (v >>> 1) ||| (bitByte c <<< 7)

/-- The flags after a left shift of `v` to `r`: `C <- v[7]; SetZN(r)`. -/
def Flags.afterLeft (f : Flags) (v r : Byte) : Flags := { (f.setZN r) with c := v.getLsbD 7 }
/-- The flags after a right shift of `v` to `r`: `C <- v[0]; SetZN(r)`. -/
def Flags.afterRight (f : Flags) (v r : Byte) : Flags := { (f.setZN r) with c := v.getLsbD 0 }

end Sys2Proof.Machine
end

