-- ==== Sys2Proof/Machine/Ops.lean ====
section
/-! DEFINITION. The named operations that instructions share (00_scope.md R10): 16-bit reads, fetch, the
stack (R26, R27), `init()` (R562), and the machine's one trap, BRK's entry and RTI's return
(60_exceptions.md R510 to R514). -/

namespace Sys2Proof.Machine

/-- `zext_16(b)` (R10). -/
def zext16 (b : Byte) : Addr := b.setWidth 16

/-- `sext_16(b)` (R10). -/
def sext16 (b : Byte) : Addr := b.signExtend 16

/-- `MemRead(addr, 2)` (R10): the low byte is read first, the high byte from the true successor. -/
def memRead16 (addr : Addr) (s : State) : Access Addr :=
  (cpuBusRead addr s).andThen fun l s =>
    (cpuBusRead (addr + 1) s).andThen fun h s => .ok (word h l) s

/-- `MemReadZP16(p)` (R10): the high byte's address wraps inside page 0. -/
def memReadZP16 (p : Byte) (s : State) : Access Addr :=
  (cpuBusRead (zext16 p) s).andThen fun l s =>
    (cpuBusRead (zext16 (p + 1)) s).andThen fun h s => .ok (word h l) s

/-- `Fetch8()` (R10). -/
def fetch8 (s : State) : Access Byte :=
  (cpuBusRead s.pc s).andThen fun v s => .ok v (s.setPc (s.pc + 1))

/-- Fetches an instruction (R120, R121): the opcode byte, then as many operand bytes as it has, in
ascending address order; `PC` ends past them. -/
def fetchInstr (s : State) : Access Instr :=
  (fetch8 s).andThen fun op s =>
    match operandBytesOf op with
    | 0 => .ok (decodeInstr op 0 0) s
    | 1 => (fetch8 s).andThen fun b1 s => .ok (decodeInstr op b1 0) s
    | _ => (fetch8 s).andThen fun b1 s => (fetch8 s).andThen fun b2 s => .ok (decodeInstr op b1 b2) s

/-! ## The stack (R23) -/

/-- The address of the slot that a stack pointer designates: `0x0100 + SP`. -/
def stackAddr (sp : Byte) : Addr := 0x0100 + zext16 sp

/-- `Push(v)` (R26). -/
def push (v : Byte) (s : State) : Access Unit :=
  let s := s.setSp (s.sp - 1)
  cpuBusWrite (stackAddr s.sp) v s

/-- `Pop()` (R27): the slot read is zeroed. -/
def pop (s : State) : Access Byte :=
  (cpuBusRead (stackAddr s.sp) s).andThen fun v s =>
    (cpuBusWrite (stackAddr s.sp) 0x00 s).andThen fun _ s => .ok v (s.setSp (s.sp + 1))

/-- Pops a word, low byte then high byte, and resumes at the word plus one (R301, R335). -/
def popPc (s : State) : Access Unit :=
  (pop s).andThen fun l s => (pop s).andThen fun h s => .ok () (s.setPc (word h l + 1))

/-! ## Reset vector, trap entry and return -/

/-- `init()` (R562): `PC` is seeded from the reset vector, nothing else changes. -/
def init (s : State) : Access Unit :=
  (memRead16 Config.resetVector s).andThen fun v s => .ok () (s.setPc v)

/-- Taking the BRK trap (R334, R511): `PC` high, `PC` low and the packed flags are pushed, then `PC` is
loaded from the vector. No flag is written, `I` included. -/
def takeTrap (s : State) : Access Unit :=
  (push (hi8 s.pc) s).andThen fun _ s =>
    (push (lo8 s.pc) s).andThen fun _ s =>
      (push s.flags.pack s).andThen fun _ s =>
        (memRead16 Config.brkVector s).andThen fun v s => .ok () (s.setPc v)

/-- Returning from the trap (R335, R514): the flags are popped, then an RTS-style return. -/
def returnFromTrap (s : State) : Access Unit :=
  (pop s).andThen fun b s => popPc (s.setFlags (.unpack b))

end Sys2Proof.Machine
end

