-- ==== Sys2Proof/Machine/Operands.lean ====
section
/-! DEFINITION. Effective addresses and operands for every addressing mode (30_encoding.md R130 to R142).
`PC` is already past the operand bytes (R24), which the instruction carries. -/

namespace Sys2Proof.Machine

/-- `EA(mode)` of a memory operand. Immediate's address is that of the operand byte (R132), the byte
before `PC`. -/
def ea : Operand → State → Access Addr
  | .imm _, s => .ok (s.pc - 1) s
  | .zp b, s => .ok (zext16 b) s
  | .zpx b, s => .ok (zext16 (b + s.x)) s
  | .zpy b, s => .ok (zext16 (b + s.y)) s
  | .abs w, s => .ok w s
  | .absx w, s => .ok (w + zext16 s.x) s
  | .absy w, s => .ok (w + zext16 s.y) s
  | .indx b, s => memReadZP16 (b + s.x) s
  | .indy b, s => (memReadZP16 b s).andThen fun w s => .ok (w + zext16 s.y) s

/-- `M = MemRead(EA(mode), 1)`. Immediate's byte is the operand byte, which the fetch has read
(notes/assumptions/11.md). -/
def readOperand (o : Operand) (s : State) : Access Byte :=
  match o with
  | .imm v => .ok v s
  | o => (ea o s).andThen cpuBusRead

/-- `MemWrite(EA(mode), 1, v)`. -/
def storeOperand (o : Operand) (v : Byte) (s : State) : Access Unit :=
  (ea o s).andThen fun a s => cpuBusWrite a v s

/-- A read-modify-write of memory (R116, R238, R265): one address, one read, one write. `f` gives the
result and the flags from the value read and the flags before. -/
def modifyOperand (o : Operand) (f : Byte → Flags → Byte × Flags) (s : State) : Access Unit :=
  (ea o s).andThen fun a s =>
    (cpuBusRead a s).andThen fun v s =>
      let r := f v s.flags
      (cpuBusWrite a r.1 s).andThen fun _ s => .ok () (s.setFlags r.2)

/-- The operand of a shift or rotate (R265): `A`, or memory. -/
def modifyShift (o : ShiftOperand) (f : Byte → Flags → Byte × Flags) (s : State) : Access Unit :=
  match o with
  | .acc => let r := f s.a s.flags; .ok () ((s.setA r.1).setFlags r.2)
  | .mem o => modifyOperand o f s

/-- `EA` of JMP (R299): the operand word, or the word it points at (R139: no page wrap). -/
def jumpTarget : JumpTarget → State → Access Addr
  | .abs w, s => .ok w s
  | .ind w, s => memRead16 w s

/-- `Branch(cond)` after the offset byte is consumed (R290). -/
def branch (cond : Bool) (off : Byte) (s : State) : Access Unit :=
  .ok () (if cond then s.setPc (s.pc + sext16 off) else s)

end Sys2Proof.Machine
end

