-- ==== Sys2Proof/Machine/Timing.lean ====
section
/-! DEFINITION. The base cycle count of an instruction (70_reset_and_hazards.md R590), read from the cycle table
that the block was built with. -/

namespace Sys2Proof.Machine

/-- The base cycle count of an instruction: that of its opcode byte, whatever its operands (R590). A mnemonic and
mode that do not go together have no opcode and no count; 0 stands there and no decoded instruction reaches it
(notes/assumptions/15.md). -/
def baseCycles (p : Config.Params) (i : Instr) : Nat :=
  match i.opcode with
  | some op => p.cycleCount op
  | none => 0

end Sys2Proof.Machine
end

