-- ==== Sys2Proof/Machine/Arithmetic.lean ====
section
/-! DEFINITION. Arithmetic, compares, increment and decrement (41_arithmetic.md).

Each runs on the state after the instruction's bytes are fetched, `PC` being the address of the next
sequential instruction (R24). -/

namespace Sys2Proof.Machine

open Host (Outcome)

/-- `AddCore(m)` (R230): `A` and the flags. -/
def addCore (m : Byte) (s : State) : State :=
  (s.setA (addResult s.a m s.flags.c)).setFlags (s.flags.afterAdd s.a m)

/-- ADC (R232). -/
def execAdc (o : Operand) (s : State) : Outcome State Fault Refusal :=
  ((readOperand o s).andThen fun m s => .ok () (addCore m s)).complete (baseCycles s.params (.adc o))

/-- SBC (R233): the complement of the operand goes through the same adder. -/
def execSbc (o : Operand) (s : State) : Outcome State Fault Refusal :=
  ((readOperand o s).andThen fun m s => .ok () (addCore (~~~m) s)).complete (baseCycles s.params (.sbc o))

/-- CMP (R235): `CompareCore(A, M)`. -/
def execCmp (o : Operand) (s : State) : Outcome State Fault Refusal :=
  ((readOperand o s).andThen fun m s =>
    .ok () (s.setFlags (s.flags.afterCompare s.a m))).complete (baseCycles s.params (.cmp o))

/-- CPX (R236): `CompareCore(X, M)`. -/
def execCpx (o : Operand) (s : State) : Outcome State Fault Refusal :=
  ((readOperand o s).andThen fun m s =>
    .ok () (s.setFlags (s.flags.afterCompare s.x m))).complete (baseCycles s.params (.cpx o))

/-- CPY (R237): `CompareCore(Y, M)`. -/
def execCpy (o : Operand) (s : State) : Outcome State Fault Refusal :=
  ((readOperand o s).andThen fun m s =>
    .ok () (s.setFlags (s.flags.afterCompare s.y m))).complete (baseCycles s.params (.cpy o))

/-- INC (R238): `Z`, `N` from the result; `C`, `V` not written. -/
def execInc (o : Operand) (s : State) : Outcome State Fault Refusal :=
  (modifyOperand o (fun v f => (v + 1, f.setZN (v + 1))) s).complete (baseCycles s.params (.inc o))

/-- DEC (R239): `Z`, `N` from the result; `C`, `V` not written. -/
def execDec (o : Operand) (s : State) : Outcome State Fault Refusal :=
  (modifyOperand o (fun v f => (v - 1, f.setZN (v - 1))) s).complete (baseCycles s.params (.dec o))

/-- INX (R240): `X <- (X + 1) mod 256; SetZN(X)`. -/
def execInx (s : State) : Outcome State Fault Refusal :=
  finishWith (baseCycles s.params .inx) ((s.setX (s.x + 1)).setFlags (s.flags.setZN (s.x + 1)))

/-- INY (R241): `Y <- (Y + 1) mod 256; SetZN(Y)`. -/
def execIny (s : State) : Outcome State Fault Refusal :=
  finishWith (baseCycles s.params .iny) ((s.setY (s.y + 1)).setFlags (s.flags.setZN (s.y + 1)))

/-- DEX (R242): `X <- (X - 1) mod 256; SetZN(X)`. -/
def execDex (s : State) : Outcome State Fault Refusal :=
  finishWith (baseCycles s.params .dex) ((s.setX (s.x - 1)).setFlags (s.flags.setZN (s.x - 1)))

/-- DEY (R243): `Y <- (Y - 1) mod 256; SetZN(Y)`. -/
def execDey (s : State) : Outcome State Fault Refusal :=
  finishWith (baseCycles s.params .dey) ((s.setY (s.y - 1)).setFlags (s.flags.setZN (s.y - 1)))

end Sys2Proof.Machine
end

