-- ==== Sys2Proof/Machine/Control.lean ====
section
/-! DEFINITION. Branches, jumps, subroutine call and return (43_control.md).

Each runs on the state after the instruction's bytes are fetched, `PC` being the address of the next
sequential instruction (R24). -/

namespace Sys2Proof.Machine

open Host (Outcome)

/-- BCC (R291): `Branch(C == 0)`. -/
def execBcc (off : Byte) (s : State) : Outcome State Fault Refusal :=
  (branch (!s.flags.c) off s).complete (baseCycles s.params (.bcc off))

/-- BCS (R292): `Branch(C == 1)`. -/
def execBcs (off : Byte) (s : State) : Outcome State Fault Refusal :=
  (branch s.flags.c off s).complete (baseCycles s.params (.bcs off))

/-- BEQ (R293): `Branch(Z == 1)`. -/
def execBeq (off : Byte) (s : State) : Outcome State Fault Refusal :=
  (branch s.flags.z off s).complete (baseCycles s.params (.beq off))

/-- BNE (R294): `Branch(Z == 0)`. -/
def execBne (off : Byte) (s : State) : Outcome State Fault Refusal :=
  (branch (!s.flags.z) off s).complete (baseCycles s.params (.bne off))

/-- BMI (R295): `Branch(N == 1)`. -/
def execBmi (off : Byte) (s : State) : Outcome State Fault Refusal :=
  (branch s.flags.n off s).complete (baseCycles s.params (.bmi off))

/-- BPL (R296): `Branch(N == 0)`. -/
def execBpl (off : Byte) (s : State) : Outcome State Fault Refusal :=
  (branch (!s.flags.n) off s).complete (baseCycles s.params (.bpl off))

/-- BVC (R297): `Branch(V == 0)`. -/
def execBvc (off : Byte) (s : State) : Outcome State Fault Refusal :=
  (branch (!s.flags.v) off s).complete (baseCycles s.params (.bvc off))

/-- BVS (R298): `Branch(V == 1)`. -/
def execBvs (off : Byte) (s : State) : Outcome State Fault Refusal :=
  (branch s.flags.v off s).complete (baseCycles s.params (.bvs off))

/-- JMP (R299): the effective address is the target. -/
def execJmp (t : JumpTarget) (s : State) : Outcome State Fault Refusal :=
  ((jumpTarget t s).andThen fun w s => .ok () (s.setPc w)).complete (baseCycles s.params (.jmp t))

/-- JSR (R300): pushes the address of its own last byte, high then low, and jumps. -/
def execJsr (w : Addr) (s : State) : Outcome State Fault Refusal :=
  ((push (hi8 (s.pc - 1)) s).andThen fun _ s1 =>
    (push (lo8 (s.pc - 1)) s1).andThen fun _ s2 => .ok () (s2.setPc w)).complete (baseCycles s.params (.jsr w))

/-- RTS (R301). -/
def execRts (s : State) : Outcome State Fault Refusal :=
  (popPc s).complete (baseCycles s.params .rts)

end Sys2Proof.Machine
end

