-- ==== Sys2Proof/Machine/LoadStore.lean ====
section
/-! DEFINITION. Loads, stores and register transfers (40_load_store_transfer.md).

Each runs on the state after the instruction's bytes are fetched, `PC` being the address of the next
sequential instruction (R24). -/

namespace Sys2Proof.Machine

open Host (Outcome)

/-- LDA (R201): `A <- M; SetZN(A)`. -/
def execLda (o : Operand) (s : State) : Outcome State Fault Refusal :=
  ((readOperand o s).andThen fun m s =>
    .ok () ((s.setA m).setFlags (s.flags.setZN m))).complete (baseCycles s.params (.lda o))

/-- LDX (R202): `X <- M; SetZN(X)`. -/
def execLdx (o : Operand) (s : State) : Outcome State Fault Refusal :=
  ((readOperand o s).andThen fun m s =>
    .ok () ((s.setX m).setFlags (s.flags.setZN m))).complete (baseCycles s.params (.ldx o))

/-- LDY (R203): `Y <- M; SetZN(Y)`. -/
def execLdy (o : Operand) (s : State) : Outcome State Fault Refusal :=
  ((readOperand o s).andThen fun m s =>
    .ok () ((s.setY m).setFlags (s.flags.setZN m))).complete (baseCycles s.params (.ldy o))

/-- STA (R204): the operand address is not read first; no flag is written. -/
def execSta (o : Operand) (s : State) : Outcome State Fault Refusal :=
  (storeOperand o s.a s).complete (baseCycles s.params (.sta o))

/-- STX (R205): the operand address is not read first; no flag is written. -/
def execStx (o : Operand) (s : State) : Outcome State Fault Refusal :=
  (storeOperand o s.x s).complete (baseCycles s.params (.stx o))

/-- STY (R206): the operand address is not read first; no flag is written. -/
def execSty (o : Operand) (s : State) : Outcome State Fault Refusal :=
  (storeOperand o s.y s).complete (baseCycles s.params (.sty o))

/-- TAX (R207): `X <- A; SetZN(X)`. -/
def execTax (s : State) : Outcome State Fault Refusal :=
  finishWith (baseCycles s.params .tax) ((s.setX s.a).setFlags (s.flags.setZN s.a))

/-- TAY (R208): `Y <- A; SetZN(Y)`. -/
def execTay (s : State) : Outcome State Fault Refusal :=
  finishWith (baseCycles s.params .tay) ((s.setY s.a).setFlags (s.flags.setZN s.a))

/-- TXA (R209): `A <- X; SetZN(A)`. -/
def execTxa (s : State) : Outcome State Fault Refusal :=
  finishWith (baseCycles s.params .txa) ((s.setA s.x).setFlags (s.flags.setZN s.x))

/-- TYA (R210): `A <- Y; SetZN(A)`. -/
def execTya (s : State) : Outcome State Fault Refusal :=
  finishWith (baseCycles s.params .tya) ((s.setA s.y).setFlags (s.flags.setZN s.y))

/-- TSX (R211): `X <- SP; SetZN(X)`. -/
def execTsx (s : State) : Outcome State Fault Refusal :=
  finishWith (baseCycles s.params .tsx) ((s.setX s.sp).setFlags (s.flags.setZN s.sp))

/-- TXS (R212): `SP <- X`, the one transfer that writes no flag. -/
def execTxs (s : State) : Outcome State Fault Refusal :=
  finishWith (baseCycles s.params .txs) (s.setSp s.x)

end Sys2Proof.Machine
end

