-- ==== Sys2Proof/Machine/Logic.lean ====
section
/-! DEFINITION. Bitwise logic, bit test, shifts and rotates (42_logic_shift.md).

Each runs on the state after the instruction's bytes are fetched, `PC` being the address of the next
sequential instruction (R24). -/

namespace Sys2Proof.Machine

open Host (Outcome)

/-- AND (R261). -/
def execAnd (o : Operand) (s : State) : Outcome State Fault Refusal :=
  ((readOperand o s).andThen fun m s =>
    .ok () ((s.setA (s.a &&& m)).setFlags (s.flags.setZN (s.a &&& m)))).complete (baseCycles s.params (.and o))

/-- ORA (R262). -/
def execOra (o : Operand) (s : State) : Outcome State Fault Refusal :=
  ((readOperand o s).andThen fun m s =>
    .ok () ((s.setA (s.a ||| m)).setFlags (s.flags.setZN (s.a ||| m)))).complete (baseCycles s.params (.ora o))

/-- EOR (R263). -/
def execEor (o : Operand) (s : State) : Outcome State Fault Refusal :=
  ((readOperand o s).andThen fun m s =>
    .ok () ((s.setA (s.a ^^^ m)).setFlags (s.flags.setZN (s.a ^^^ m)))).complete (baseCycles s.params (.eor o))

/-- BIT (R264): no register is written. -/
def execBit (o : Operand) (s : State) : Outcome State Fault Refusal :=
  ((readOperand o s).andThen fun m s =>
    .ok () (s.setFlags (s.flags.afterBit s.a m))).complete (baseCycles s.params (.bit o))

/-- ASL (R266). -/
def execAsl (o : ShiftOperand) (s : State) : Outcome State Fault Refusal :=
  (modifyShift o (fun v f =>
    (aslResult v, f.afterLeft v (aslResult v))) s).complete (baseCycles s.params (.asl o))

/-- LSR (R267). -/
def execLsr (o : ShiftOperand) (s : State) : Outcome State Fault Refusal :=
  (modifyShift o (fun v f =>
    (lsrResult v, f.afterRight v (lsrResult v))) s).complete (baseCycles s.params (.lsr o))

/-- ROL (R268). -/
def execRol (o : ShiftOperand) (s : State) : Outcome State Fault Refusal :=
  (modifyShift o (fun v f =>
    (rolResult v f.c, f.afterLeft v (rolResult v f.c))) s).complete (baseCycles s.params (.rol o))

/-- ROR (R269). -/
def execRor (o : ShiftOperand) (s : State) : Outcome State Fault Refusal :=
  (modifyShift o (fun v f =>
    (rorResult v f.c, f.afterRight v (rorResult v f.c))) s).complete (baseCycles s.params (.ror o))

end Sys2Proof.Machine
end

