-- ==== Sys2Proof/Machine/StackSystem.lean ====
section
/-! DEFINITION. Stack, flag and system instructions and the undefined opcodes (44_stack_flag_system.md).

Each runs on the state after the instruction's bytes are fetched, `PC` being the address of the next
sequential instruction (R24). -/

namespace Sys2Proof.Machine

open Host (Outcome)

/-- PHA (R320). -/
def execPha (s : State) : Outcome State Fault Refusal :=
  (push s.a s).complete (baseCycles s.params .pha)

/-- PLA (R321): `A <- Pop(); SetZN(A)`. -/
def execPla (s : State) : Outcome State Fault Refusal :=
  ((pop s).andThen fun v s => .ok () ((s.setA v).setFlags (s.flags.setZN v))).complete (baseCycles s.params .pla)

/-- PHP (R322): the packed flag byte exactly. -/
def execPhp (s : State) : Outcome State Fault Refusal :=
  (push s.flags.pack s).complete (baseCycles s.params .php)

/-- PLP (R323): all five flags. -/
def execPlp (s : State) : Outcome State Fault Refusal :=
  ((pop s).andThen fun b s => .ok () (s.setFlags (.unpack b))).complete (baseCycles s.params .plp)

/-- CLC (R325): `C <- 0`. -/
def execClc (s : State) : Outcome State Fault Refusal :=
  finishWith (baseCycles s.params .clc) (s.setFlags { s.flags with c := false })

/-- SEC (R326): `C <- 1`. -/
def execSec (s : State) : Outcome State Fault Refusal :=
  finishWith (baseCycles s.params .sec) (s.setFlags { s.flags with c := true })

/-- CLI (R327): `I <- 0`. -/
def execCli (s : State) : Outcome State Fault Refusal :=
  finishWith (baseCycles s.params .cli) (s.setFlags { s.flags with i := false })

/-- SEI (R328): `I <- 1`. -/
def execSei (s : State) : Outcome State Fault Refusal :=
  finishWith (baseCycles s.params .sei) (s.setFlags { s.flags with i := true })

/-- CLV (R329): `V <- 0`. -/
def execClv (s : State) : Outcome State Fault Refusal :=
  finishWith (baseCycles s.params .clv) (s.setFlags { s.flags with v := false })

/-- CLD (R330): there is no decimal flag to clear; no effect. -/
def execCld (s : State) : Outcome State Fault Refusal :=
  finishWith (baseCycles s.params .cld) s

/-- SED (R331): there is no decimal flag to set; no effect. -/
def execSed (s : State) : Outcome State Fault Refusal :=
  finishWith (baseCycles s.params .sed) s

/-- NOP (R333): no effect. -/
def execNop (s : State) : Outcome State Fault Refusal :=
  finishWith (baseCycles s.params .nop) s

/-- BRK (R334): the trap, suppressed entirely while `I` is set. -/
def execBrk (s : State) : Outcome State Fault Refusal :=
  (if s.flags.i then Access.ok () s else takeTrap s).complete (baseCycles s.params .brk)

/-- RTI (R335). -/
def execRti (s : State) : Outcome State Fault Refusal :=
  (returnFromTrap s).complete (baseCycles s.params .rti)

/-- An undefined opcode (R340): the `illegal_opcode` diagnostic and nothing else; `remaining_cycles` is
not written. -/
def execUndefined (_op : Byte) (s : State) : Outcome State Fault Refusal :=
  .next (s.note .illegalOpcode)

end Sys2Proof.Machine
end

