-- ==== Sys2Proof/Machine/Clock.lean ====
section
/-! DEFINITION. The agents' steps: the CPU's `exec()` (R120) and `clock()` (R572), the PPU's `run()` (R402),
the orchestrator's `tick()` (R570). -/

namespace Sys2Proof.Machine

open Host (Outcome)

/-- `exec()`: fetches one whole instruction at `PC` and executes it (R120). -/
def execNext (s : State) : Outcome State Fault Refusal :=
  match fetchInstr s with
  | .ok i s => exec i s
  | .hardFault info s => .fault (.hardFault info s)

/-- The last line of `clock()`: `remaining_cycles` is decremented if it is not 0 (R572). -/
def spendCycle (s : State) : State := s.setRemaining (s.remainingCycles - 1)

/-- `cpu.clock()` (R572). -/
def clock (s : State) : Outcome State Fault Refusal :=
  match (if s.remainingCycles = 0 then execNext s else .next s) with
  | .next s => .next (spendCycle s)
  | .fault r => .fault r
  | .refused r => .refused r

/-- `run()` on the PPU's state (R402). -/
def Ppu.run (p : Ppu) : Ppu :=
  if p.cycle + 1 = Config.cyclesPerScanline then
    if p.scanline + 1 = 261 then { p with cycle := 0, scanline := -1, frameComplete := true }
    else { p with cycle := 0, scanline := p.scanline + 1 }
  else { p with cycle := p.cycle + 1 }

/-- `ppu.run()`: one PPU clock tick. -/
def ppuRun (s : State) : State := { s with ppu := s.ppu.run }

/-- The last line of `tick()`: `phase <- (phase + 1) mod 3` (R570). -/
def nextPhase (s : State) : State := s.setPhase (s.phase + 1)

/-- `tick()` (R570): the PPU runs, and the CPU is clocked in phase 0. A block whose `FAULT` is set takes no
further step (R46, R506). -/
def tick (s : State) : Outcome State Fault Refusal :=
  match s.fault with
  | some info => .fault (.hardFault info s)
  | none =>
    match (if s.phase = 0 then clock (ppuRun s) else .next (ppuRun s)) with
    | .next s => .next (nextPhase s)
    | .fault r => .fault r
    | .refused r => .refused r

end Sys2Proof.Machine
end

