-- ==== Sys2Proof/Machine/View.lean ====
section
/-! DEFINITION. What a CPU address means, written a second time as the address map of 20_memory.md R100
instead of as the arbiter's calls: the terms in which statements speak of memory. Laws/Bus.lean proves
that the arbiter agrees. -/

namespace Sys2Proof.Machine

open Config (Params)

/-- The unit and index that service a CPU address (R100). -/
inductive Place where
  /-- Internal RAM. -/
  | ram (i : Nat)
  /-- A register of the PPU window. -/
  | window (r : Nat)
  /-- No unit. -/
  | unmapped
  /-- A byte of PRG memory. -/
  | prg (off : Nat)
  /-- Claimed by the cartridge, with an offset outside PRG memory (R94). -/
  | outside (off : Nat)
  deriving DecidableEq, Repr

/-- The address map (R100). -/
def place (p : Params) (a : Addr) : Place :=
  if a.toNat < 0x2000 then .ram (a.toNat % 2048)
  else if a.toNat < 0x4000 then .window (a.toNat % 8)
  else if a.toNat < 0x8000 then .unmapped
  else
    let off := if p.prgBanks.val > 1 then a.toNat % 0x8000 else a.toNat % 0x4000
    if off < p.prgSize then .prg off else .outside off

/-- A CPU access to `a` raises no hard fault: it is below the cartridge, or PRG memory exists (R94). -/
abbrev Accessible (p : Params) (a : Addr) : Prop := a.toNat < 0x8000 ∨ 0 < p.prgBanks.val

/-- The byte the CPU sees at an address. -/
def peek (s : State) (a : Addr) : Byte :=
  match place s.params a with
  | .ram i => s.ram.read i
  | .window r => if r = 2 then s.params.ppuStatus else 0x00
  | .unmapped => 0x00
  | .prg off => s.prg.read off
  | .outside _ => 0x00

/-- The state after the CPU reads an address: a diagnostic at most (R108). -/
def noteRead (s : State) (a : Addr) : State :=
  match place s.params a with
  | .ram _ => s
  | .window r => if r = 2 then s else s.note .ppuRegUnimplemented
  | .unmapped => s.note .unmappedRead
  | .prg _ => s
  | .outside _ => s

/-- The state after the CPU writes an address. -/
def poke (s : State) (a : Addr) (v : Byte) : State :=
  match place s.params a with
  | .ram i => s.writeRam i v
  | .window _ => s.note .ppuRegUnimplemented
  | .unmapped => s.note .unmappedWrite
  | .prg off => s.writePrg off v
  | .outside _ => s

/-- The word at an address (R10, R105). -/
def peek16 (s : State) (a : Addr) : Addr := word (peek s (a + 1)) (peek s a)

/-- The word at a zero-page pointer, whose high byte wraps inside page 0 (R10). -/
def peekZP16 (s : State) (p : Byte) : Addr := word (peek s (zext16 (p + 1))) (peek s (zext16 p))

/-- The effective address of a memory operand (R132 to R141), by formula. -/
def effAddr (o : Operand) (s : State) : Addr :=
  match o with
  | .imm _ => s.pc - 1
  | .zp b => zext16 b
  | .zpx b => zext16 (b + s.x)
  | .zpy b => zext16 (b + s.y)
  | .abs w => w
  | .absx w => w + zext16 s.x
  | .absy w => w + zext16 s.y
  | .indx b => peekZP16 s (b + s.x)
  | .indy b => peekZP16 s b + zext16 s.y

/-- The operand can be read: Immediate always, a memory operand when its address is accessible. -/
def OperandAccessible (o : Operand) (s : State) : Prop :=
  match o with
  | .imm _ => True
  | o => Accessible s.params (effAddr o s)

/-- The operand byte `M`. -/
def operandByte (o : Operand) (s : State) : Byte :=
  match o with
  | .imm v => v
  | o => peek s (effAddr o s)

/-- The state after the operand is read. -/
def noteOperand (o : Operand) (s : State) : State :=
  match o with
  | .imm _ => s
  | o => noteRead s (effAddr o s)

/-- The state after `n` bytes from `a` on are read. -/
def noteReads : Nat → Addr → State → State
  | 0, _, s => s
  | n + 1, a, s => noteReads n (a + 1) (noteRead s a)

/-- The state after an instruction of `n` bytes at `PC` is fetched (R24, R120). -/
def fetched (n : Nat) (s : State) : State := (noteReads n s.pc s).setPc (s.pc + BitVec.ofNat 16 n)

/-- The bytes of the longest instruction, as the CPU sees them at `PC`. -/
def bytesAtPc (s : State) : List Byte := [peek s s.pc, peek s (s.pc + 1), peek s (s.pc + 2)]

/-- An address whose byte a write changes: RAM or PRG memory. -/
def storable (p : Params) (a : Addr) : Bool :=
  match place p a with
  | .ram _ | .prg _ => true
  | .window _ | .unmapped | .outside _ => false

end Sys2Proof.Machine
end

