-- ==== Sys2Proof/Machine/Step.lean ====
section
/-! DEFINITION. One step of the machine, the orchestrator's `tick()` (00_scope.md R6, R570), and the state
whose next step runs a given word. -/

namespace Sys2Proof.Machine

/-- One step: one `tick()`. The divider phase and `remaining_cycles` say which ticks execute an
instruction (notes/assumptions/10.md). -/
def step (s : State) : Host.Outcome State Fault Refusal := tick s

/-- The state with the instruction word stored where `step` fetches next. The next tick is made one that
executes an instruction (no fault, phase 0, no cycles left); a `PC` at which bytes cannot be stored is
moved to 0x0000, in RAM (notes/assumptions/14.md). -/
def State.withFetchWord (s : State) (nbits w : Nat) : State :=
  let ok := storable s.params s.pc && storable s.params (s.pc + 1) && storable s.params (s.pc + 2)
  let s := { s with pc := if ok then s.pc else 0x0000, fault := none, phase := 0, remainingCycles := 0 }
  poke (poke (poke s s.pc (tableByte nbits w 0)) (s.pc + 1) (tableByte nbits w 1)) (s.pc + 2) (tableByte nbits w 2)

end Sys2Proof.Machine
end

