-- ==== Sys2Proof/Machine/Pattern.lean ====
section
/-! DEFINITION. The PPU's pattern-table and palette decode (47_ppu_unit.md R412 to R415): the host's query
`get_pattern_tables`. -/

namespace Sys2Proof.Machine

/-- One output pixel of the 128 by 128 grid, `(0, 0)` top left (R415). -/
structure Pixel where
  x : Nat
  y : Nat
  color : Config.Rgb
  deriving DecidableEq, Repr

/-- Runs a reading operation for each element of a list, in order, and joins what they give. -/
def Access.collect {α β : Type} (f : α → State → Access (List β)) : List α → State → Access (List β)
  | [], s => .ok [] s
  | x :: xs, s => (f x s).andThen fun ys s => (Access.collect f xs s).andThen fun zs s => .ok (ys ++ zs) s

/-- The pixel value of a column: the sum of the two plane bits, MSB first (R413). -/
def pixelValue (lo hi : Byte) (col : Nat) : Nat :=
  (bitByte (lo.getLsbD (7 - col))).toNat + (bitByte (hi.getLsbD (7 - col))).toNat

/-- `PaletteColor(p, px)` (R414). -/
def paletteColor (ppu : Ppu) (p : Fin 8) (px : Nat) : Config.Rgb :=
  Config.colorTable (Fin.ofNat 64 (ppu.palette.get (Fin.ofNat 32 (p.val * Config.paletteStride + px))).toNat)

/-- The PPU address of a tile's first byte (R415). -/
def tileBase (i : Fin 2) (ty tx : Nat) : Nat := i.val * 0x1000 + ty * 256 + tx * 16

/-- The eight pixels of one row of a tile: two reads, the low plane's byte first (R412). -/
def tileRow (i : Fin 2) (p : Fin 8) (ty tx row : Nat) (s : State) : Access (List Pixel) :=
  (ppuBusRead (BitVec.ofNat 16 (tileBase i ty tx + row)) s).andThen fun lo s =>
    (ppuBusRead (BitVec.ofNat 16 (tileBase i ty tx + row + 8)) s).andThen fun hi s =>
      .ok ((List.range 8).map fun col =>
        { x := tx * 8 + col, y := ty * 8 + row, color := paletteColor s.ppu p (pixelValue lo hi col) }) s

/-- `get_pattern_tables(i, p)` (R412): the pixels of the grid in the order of the rule's loops. -/
def getPatternTables (i : Fin 2) (p : Fin 8) (s : State) : Access (List Pixel) :=
  Access.collect (fun ty => Access.collect (fun tx => Access.collect (tileRow i p ty tx)
    (List.range 8)) (List.range 16)) (List.range 16) s

end Sys2Proof.Machine
end

