-- ==== Sys2Proof/Machine/HostInterface.lean ====
section
/-! DEFINITION. What the host may do to the block (60_exceptions.md R524). Reading State's fields is the
inspection that the rule allows. -/

namespace Sys2Proof.Machine

open Host (Outcome)

/-- The host's actions on the block (R524), but for reading its state. R524 lets the host write registers, flags
or memory between instructions and names `CpuBusWrite`, `Push`, `Pop` and `set_flags_from_byte` as the means, of
which none writes A, X, Y or PC. DESIGN CHOICE (notes/assumptions/20.md): the host has exactly those four, and no
direct write of a register. -/
inductive HostAction where
  /-- `init()` (R562). -/
  | init
  /-- `tick()` (R570). -/
  | tick
  /-- `ppu.run()` called singly. -/
  | ppuRun
  /-- `cpu.clock()` called singly. -/
  | cpuClock
  /-- `cpu.exec()` called singly. -/
  | cpuExec
  /-- The query `get_pattern_tables(i, p)`, which changes nothing unless it raises the hard fault (R412,
  R506). -/
  | patternTables (i : Fin 2) (p : Fin 8)
  /-- Clearing `frame_complete` (R404). -/
  | clearFrameComplete
  /-- A test bench's `CpuBusWrite(addr, v)`. -/
  | busWrite (addr : Addr) (v : Byte)
  /-- A test bench's `Push(v)`. -/
  | push (v : Byte)
  /-- A test bench's `Pop()`. -/
  | pop
  /-- A test bench's `set_flags_from_byte(b)`. -/
  | setFlags (b : Byte)
  deriving DecidableEq, Repr

/-- `frame_complete <- false` (R404). -/
def clearFrameComplete (s : State) : State := { s with ppu := { s.ppu with frameComplete := false } }

/-- A host action on a block whose `FAULT` is absent. -/
def hostActRunning : HostAction → State → Outcome State Fault Refusal
  | .init, s => (Sys2Proof.Machine.init s).outcome
  | .tick, s => Sys2Proof.Machine.tick s
  | .ppuRun, s => .next (Sys2Proof.Machine.ppuRun s)
  | .cpuClock, s => clock s
  | .cpuExec, s => execNext s
  | .patternTables i p, s => ((getPatternTables i p s).andThen fun _ s => .ok () s).outcome
  | .clearFrameComplete, s => .next (Sys2Proof.Machine.clearFrameComplete s)
  | .busWrite a v, s => (cpuBusWrite a v s).outcome
  | .push v, s => (Sys2Proof.Machine.push v s).outcome
  | .pop, s => ((Sys2Proof.Machine.pop s).andThen fun _ s => .ok () s).outcome
  | .setFlags b, s => .next (s.setFlags (.unpack b))

/-- A host action; a block whose `FAULT` is set takes no further step (R506). -/
def hostAct (h : HostAction) (s : State) : Outcome State Fault Refusal :=
  match s.fault with
  | some info => .fault (.hardFault info s)
  | none => hostActRunning h s

/-- Bring-up (R561): construction with a cartridge, then `init()` once. -/
def boot (p : Config.Params) (k : Contents) : Outcome State Fault Refusal :=
  (init (State.construct p k)).outcome

end Sys2Proof.Machine
end

