-- ==== Sys2Proof/Safety.lean ====
section
/-! DEFINITION. What counts as a safe run, in the terms that statements use: a consistent cartridge
(R506), the invariant of a running block, sticky diagnostics (R45). -/

namespace Sys2Proof.Machine

/-- The cartridge parameters are consistent: no access can raise the hard fault (R94, R506). -/
def Consistent (p : Config.Params) : Prop := 1 ≤ p.prgBanks.val ∧ 0x2000 ≤ p.chrSize

/-- Every memory is in canonical form and inside its buffer (R36 to R40). -/
def State.MemoryOk (s : State) : Prop :=
  (s.ram.wf = true ∧ s.ram.within Config.ramSize = true) ∧
  (s.prg.wf = true ∧ s.prg.within s.params.prgSize = true) ∧
  (s.chr.wf = true ∧ s.chr.within s.params.chrSize = true) ∧
  (s.ppu.patternRam.wf = true ∧ s.ppu.patternRam.within Config.patternRamSize = true)

/-- The PPU counters are where they are between calls of `run()` (R40, R402). -/
def Ppu.InRange (p : Ppu) : Prop := p.cycle ≤ 340 ∧ -1 ≤ p.scanline ∧ p.scanline ≤ 260

/-- The invariant of a running block: memories canonical and inside their buffers, counters in range,
`remaining_cycles` at most the largest base count (R43), `FAULT` absent. -/
def State.Inv (s : State) : Prop :=
  s.MemoryOk ∧ s.ppu.InRange ∧ s.remainingCycles ≤ 7 ∧ s.fault = none

/-- Every mark set in `d` is set in `e`: marks are never cleared (R45). -/
def Diag.le (d e : Diag) : Prop :=
  (d.unmappedRead = true → e.unmappedRead = true) ∧
  (d.unmappedWrite = true → e.unmappedWrite = true) ∧
  (d.illegalOpcode = true → e.illegalOpcode = true) ∧
  (d.ppuRegUnimplemented = true → e.ppuRegUnimplemented = true) ∧
  (d.ppuUnmappedRead = true → e.ppuUnmappedRead = true)

/-- `n` calls of `run()` on the PPU's state. -/
def Ppu.runs : Nat → Ppu → Ppu
  | 0, p => p
  | n + 1, p => Ppu.runs n p.run

/-- `n` ticks, stopping at the first fault. -/
def ticks : Nat → State → Host.Outcome State Fault Refusal
  | 0, s => .next s
  | n + 1, s =>
    match step s with
    | .next s => ticks n s
    | .fault r => .fault r
    | .refused r => .refused r

end Sys2Proof.Machine
end

