-- ==== Sys2Proof/Certificates/Slice0/Obligations.lean ====
section
/-! DEFINITION. The statements for the provers (OBLIGATIONS.json lists them). Each docstring names the rules
it rests on and, where a clause rests on a decision D<n> of 92_eei_decisions.md or on a log entry of
this model, says so. In every statement about an instruction `remaining_cycles` takes `baseCycles`, the count
that the block's cycle table gives the opcode (R200, R590); the table is a parameter (R8, R591), and its default
values, the spec's decision D3, are stated by `BaseCyclesAreTheTable` (notes/assumptions/15.md). -/

open Sys2Proof Sys2Proof.Machine
open Host (Outcome)

/-! ## Reset and bring-up -/

/-- R48, R561, G9: the reset table, for every parameter record and contents, and the machine's reset state is
what bring-up (construction, then one `init()`) gives for the default cartridge. The values of A, X, Y and the
flags are the spec's decision D12, those of `remaining_cycles`, `phase`, `DIAG` and `FAULT` its decisions D18,
D19, D17, D24; the blank default cartridge is this model's choice (notes/assumptions/1.md, 4.md). -/
def Obligations.ResetTableAndBringUp : Prop :=
  boot Config.defaultParams Contents.blank = .next State.reset ∧
  ∀ (p : Config.Params) (k : Contents),
    let s := State.construct p k
    s.a = 0x00 ∧ s.x = 0x00 ∧ s.y = 0x00 ∧ s.sp = k.sp ∧
    s.flags = { n := false, v := false, z := false, c := false, i := false } ∧
    s.ram = k.ram ∧ s.prg = k.prg ∧ s.chr = k.chr ∧
    s.ppu.cycle = 0 ∧ s.ppu.scanline = -1 ∧ s.ppu.frameComplete = false ∧
    s.ppu.palette = k.palette ∧ s.ppu.patternRam = k.patternRam ∧
    s.remainingCycles = 0 ∧ s.phase = 0 ∧
    s.diag = { unmappedRead := false, unmappedWrite := false, illegalOpcode := false,
               ppuRegUnimplemented := false, ppuUnmappedRead := false } ∧
    s.fault = none

/-- R562: `init()` loads PC from the vector, low byte from 0xFFFC, and changes nothing else. Without a PRG bank it
raises the hard fault (`NoPrgBankRaisesHardFault`). -/
def Obligations.InitSeedsPcFromResetVector : Prop :=
  ∀ s : State, 0 < s.params.prgBanks.val →
    init s = .ok () { s with pc := word (peek s 0xFFFD) (peek s 0xFFFC) }

/-- R86, R562 (the source's §8 Reset vector property, for every pair of bytes): a vector stored through
the bus is the one that `init()` loads. Canonical PRG memory is a premise, kept by every step. -/
def Obligations.StoredResetVectorIsLoaded : Prop :=
  ∀ (s : State) (l h : Byte), s.prg.wf = true → 0 < s.params.prgBanks.val →
    ∃ t1 t2 t3, cpuBusWrite 0xFFFC l s = .ok () t1 ∧ cpuBusWrite 0xFFFD h t1 = .ok () t2 ∧
      init t2 = .ok () t3 ∧ t3.pc = word h l

/-! ## Mapper, bus, PPU window -/

/-- R61, R62, R65: the NROM translator of CPU addresses. -/
def Obligations.MapperTranslatesCpuAddresses : Prop :=
  ∀ (p : Config.Params) (a : Addr),
    (a.toNat < 0x8000 → cpuMapRead p a = none) ∧
    (0x8000 ≤ a.toNat → 1 < p.prgBanks.val → cpuMapRead p a = some (a.toNat % 0x8000)) ∧
    (0x8000 ≤ a.toNat → p.prgBanks.val ≤ 1 → cpuMapRead p a = some (a.toNat % 0x4000)) ∧
    cpuMapWrite p a = cpuMapRead p a ∧
    (p.prgBanks.val = 1 → cpuMapRead p 0xC000 = cpuMapRead p 0x8000) ∧
    (p.prgBanks.val = 2 → cpuMapRead p 0xC000 ≠ cpuMapRead p 0x8000)

/-- R96: the arbiter's read. The case without a PRG bank is `NoPrgBankRaisesHardFault`. -/
def Obligations.BusReadFollowsPrecedence : Prop :=
  ∀ (a : Addr) (s : State),
    (a.toNat < 0x2000 → cpuBusRead a s = .ok (s.ram.read (a.toNat % 2048)) s) ∧
    (0x2000 ≤ a.toNat → a.toNat < 0x4000 → cpuBusRead a s = ppuCpuRead (a.toNat % 8) s) ∧
    (0x4000 ≤ a.toNat → a.toNat < 0x8000 →
      cpuBusRead a s = .ok 0x00 { s with diag := { s.diag with unmappedRead := true } }) ∧
    (0x8000 ≤ a.toNat → 1 < s.params.prgBanks.val →
      cpuBusRead a s = .ok (s.prg.read (a.toNat % 0x8000)) s) ∧
    (0x8000 ≤ a.toNat → s.params.prgBanks.val = 1 →
      cpuBusRead a s = .ok (s.prg.read (a.toNat % 0x4000)) s)

/-- R98: the arbiter's write. That a write changes PRG memory is the spec's decision D22. The case without a PRG
bank is `NoPrgBankRaisesHardFault`. -/
def Obligations.BusWriteFollowsPrecedence : Prop :=
  ∀ (a : Addr) (v : Byte) (s : State),
    (a.toNat < 0x2000 →
      cpuBusWrite a v s = .ok () { s with ram := s.ram.write (a.toNat % 2048) v }) ∧
    (0x2000 ≤ a.toNat → a.toNat < 0x4000 → cpuBusWrite a v s = ppuCpuWrite (a.toNat % 8) v s) ∧
    (0x4000 ≤ a.toNat → a.toNat < 0x8000 →
      cpuBusWrite a v s = .ok () { s with diag := { s.diag with unmappedWrite := true } }) ∧
    (0x8000 ≤ a.toNat → 1 < s.params.prgBanks.val →
      cpuBusWrite a v s = .ok () { s with prg := s.prg.write (a.toNat % 0x8000) v }) ∧
    (0x8000 ≤ a.toNat → s.params.prgBanks.val = 1 →
      cpuBusWrite a v s = .ok () { s with prg := s.prg.write (a.toNat % 0x4000) v })

/-- R94, R506 (what a hard fault is, is the spec's decision D24; notes/assumptions/12.md): without a PRG bank
every access from 0x8000 up, the reset vector's included, raises the hard fault with the address and the masked
offset, and changes nothing but FAULT. -/
def Obligations.NoPrgBankRaisesHardFault : Prop :=
  ∀ (a : Addr) (v : Byte) (s : State), s.params.prgBanks.val = 0 → 0x8000 ≤ a.toNat →
    let info := HardFault.prgIndexOutOfBounds a (a.toNat % 0x4000)
    cpuBusRead a s = .hardFault info { s with fault := some info } ∧
    cpuBusWrite a v s = .hardFault info { s with fault := some info } ∧
    init s = .hardFault (.prgIndexOutOfBounds 0xFFFC 0x3FFC)
      { s with fault := some (.prgIndexOutOfBounds 0xFFFC 0x3FFC) }

/-- R405 to R409: the register window. That the other registers give 0x00 and a diagnostic, and that
every write is dropped with one, are the spec's decisions D15, D16; that the vblank bit, which is set, is bit 7 is
D15's default too (notes/assumptions/5.md). -/
def Obligations.PpuWindowHoldsNoState : Prop :=
  ∀ (r : Nat) (v : Byte) (s : State),
    ppuCpuRead 2 s = .ok s.params.ppuStatus s ∧ s.params.ppuStatus.getLsbD 7 = true ∧
    (r ≠ 2 → ppuCpuRead r s = .ok 0x00 { s with diag := { s.diag with ppuRegUnimplemented := true } }) ∧
    ppuCpuWrite r v s = .ok () { s with diag := { s.diag with ppuRegUnimplemented := true } }

/-- R63, R64, R88, R90, R101, R102: the PPU side of the bus. The value of an unrouted read is the
spec's decision D38, and what a hard fault is its decision D24 (notes/assumptions/12.md). -/
def Obligations.PpuBusReachesCharacterMemory : Prop :=
  ∀ (a : Addr) (v : Byte) (s : State),
    (a.toNat < 0x2000 → a.toNat < s.params.chrSize → ppuBusRead a s = .ok (s.chr.read a.toNat) s) ∧
    (a.toNat < 0x2000 → s.params.chrSize ≤ a.toNat →
      ppuBusRead a s = .hardFault (.chrIndexOutOfBounds a a.toNat)
        { s with fault := some (.chrIndexOutOfBounds a a.toNat) }) ∧
    (0x2000 ≤ a.toNat →
      ppuBusRead a s = .ok 0x00 { s with diag := { s.diag with ppuUnmappedRead := true } } ∧
      ppuBusWrite a v s = .ok () s) ∧
    (0 < s.params.chrBanks.val → ppuBusWrite a v s = .ok () s) ∧
    (a.toNat < 0x2000 → s.params.chrBanks.val = 0 → a.toNat < s.params.chrSize →
      ppuBusWrite a v s = .ok () { s with chr := s.chr.write a.toNat v }) ∧
    (a.toNat < 0x2000 → s.params.chrBanks.val = 0 → s.params.chrSize ≤ a.toNat →
      ppuBusWrite a v s = .hardFault (.chrIndexOutOfBounds a a.toNat)
        { s with fault := some (.chrIndexOutOfBounds a a.toNat) })

/-- R109, R113: a byte written through the bus is read back through every alias, and every byte elsewhere
reads as before. Canonical memories are a premise, kept by every step. -/
def Obligations.WriteIsSeenThroughEveryAlias : Prop :=
  ∀ (s : State) (a : Addr) (v : Byte), s.ram.wf = true → s.prg.wf = true →
    (a.toNat < 0x2000 ∨ (0x8000 ≤ a.toNat ∧ 0 < s.params.prgBanks.val)) →
    ∃ t, cpuBusWrite a v s = .ok () t ∧ ∀ b : Addr,
      ((a.toNat < 0x2000 ∧ b.toNat < 0x2000 ∧ a.toNat % 2048 = b.toNat % 2048) ∨
       (0x8000 ≤ a.toNat ∧ 0x8000 ≤ b.toNat ∧ cpuMapRead s.params a = cpuMapRead s.params b) →
        cpuBusRead b t = .ok v t) ∧
      (place s.params b ≠ place s.params a → peek t b = peek s b)

/-! ## Flags and stack -/

/-- R31, R32, R33: the packed byte's layout and the round trips. That bits 2, 3 and 4 read 0 is the spec's
decision D6. -/
def Obligations.FlagByteRoundTrips : Prop :=
  (∀ f : Flags,
    f.pack.getLsbD 0 = f.n ∧ f.pack.getLsbD 1 = f.v ∧ f.pack.getLsbD 2 = false ∧
    f.pack.getLsbD 3 = false ∧ f.pack.getLsbD 4 = false ∧ f.pack.getLsbD 5 = f.i ∧
    f.pack.getLsbD 6 = f.z ∧ f.pack.getLsbD 7 = f.c ∧ Flags.unpack f.pack = f) ∧
  (∀ b : Byte, (Flags.unpack b).pack = b &&& 0xE3)

/-- R26, R27: a push and then a pop give the byte back and restore SP; the slot is zeroed and every byte of
memory elsewhere is as before, for every SP, the wrapping ones included. Canonical RAM is a premise, kept by
every step. -/
def Obligations.PushThenPopReturnsTheByte : Prop :=
  ∀ (s : State) (v : Byte), s.ram.wf = true →
    ∃ t u, push v s = .ok () t ∧ t.sp = s.sp - 1 ∧ peek t (stackAddr t.sp) = v ∧
      pop t = .ok v u ∧ u.sp = s.sp ∧ peek u (stackAddr t.sp) = 0x00 ∧
      (∀ b : Addr, place s.params b ≠ place s.params (stackAddr t.sp) → peek u b = peek s b) ∧
      { u with ram := s.ram } = s

/-! ## Encoding -/

/-- R121, R150: words written out from the map decode to what they stand for, one or more of every
family. -/
def Obligations.SampleWordsDecode : Prop :=
  decode [0b10101001, 0x80] = .ok (.lda (.imm 0x80), []) ∧
  decode [0b10010110, 0xFF] = .ok (.stx (.zpy 0xFF), []) ∧
  decode [0b01111101, 0x34, 0x12] = .ok (.adc (.absx 0x1234), []) ∧
  decode [0b01010001, 0x40] = .ok (.eor (.indy 0x40), []) ∧
  decode [0b00101010] = .ok (.rol .acc, []) ∧
  decode [0b10010000, 0x04] = .ok (.bcc 0x04, []) ∧
  decode [0b01101100, 0x00, 0x03] = .ok (.jmp (.ind 0x0300), []) ∧
  decode [0b00100000, 0x34, 0x92] = .ok (.jsr 0x9234, []) ∧
  decode [0b00000000] = .ok (.brk, []) ∧
  decode [0b00000010, 0xA9] = .ok (.undefined 0x02, [0xA9])

/-- R150, R151: decoding the encoding of any well-formed instruction gives it back with every operand
value, and leaves the bytes after it. -/
def Obligations.DecodeOfEncodeIsTheInstruction : Prop :=
  ∀ (i : Instr) (rest : List Byte), i.wellFormed = true →
    ∃ bs, encode i = some bs ∧ bs.length = i.length ∧ decode (bs ++ rest) = .ok (i, rest)

/-- R121, R123, R150, R155: whatever the bytes, what is decoded is well-formed, and its encoding is exactly the
bytes consumed, so that each byte sequence has one meaning; decoding fails only for want of bytes, and how
many are wanted depends on the opcode byte alone. -/
def Obligations.EncodeOfDecodeIsTheBytes : Prop :=
  (∀ (bs rest : List Byte) (i : Instr), decode bs = .ok (i, rest) →
    i.wellFormed = true ∧ ∃ used, encode i = some used ∧ bs = used ++ rest) ∧
  (∀ (op : Byte) (rest : List Byte),
    (∃ i r, decode (op :: rest) = .ok (i, r)) ↔ operandBytesOf op ≤ rest.length)

/-! ## Loads, stores, transfers (40_load_store_transfer.md) -/

/-- R201, R202, R203: encodings and effect of the loads. Everything not named is unchanged, but for the
diagnostic the read may record. -/
def Obligations.LoadsReadTheOperand : Prop :=
  (∀ (b : Byte) (w : Addr),
    encode (.lda (.imm b)) = some [0xA9, b] ∧ encode (.lda (.zp b)) = some [0xA5, b] ∧
    encode (.lda (.zpx b)) = some [0xB5, b] ∧ encode (.lda (.abs w)) = some [0xAD, lo8 w, hi8 w] ∧
    encode (.lda (.absx w)) = some [0xBD, lo8 w, hi8 w] ∧ encode (.lda (.absy w)) = some [0xB9, lo8 w, hi8 w] ∧
    encode (.lda (.indx b)) = some [0xA1, b] ∧ encode (.lda (.indy b)) = some [0xB1, b] ∧
    encode (.ldx (.imm b)) = some [0xA2, b] ∧ encode (.ldx (.zp b)) = some [0xA6, b] ∧
    encode (.ldx (.zpy b)) = some [0xB6, b] ∧ encode (.ldx (.abs w)) = some [0xAE, lo8 w, hi8 w] ∧
    encode (.ldx (.absy w)) = some [0xBE, lo8 w, hi8 w] ∧
    encode (.ldy (.imm b)) = some [0xA0, b] ∧ encode (.ldy (.zp b)) = some [0xA4, b] ∧
    encode (.ldy (.zpx b)) = some [0xB4, b] ∧ encode (.ldy (.abs w)) = some [0xAC, lo8 w, hi8 w] ∧
    encode (.ldy (.absx w)) = some [0xBC, lo8 w, hi8 w]) ∧
  ∀ (o : Operand) (s : State), OperandAccessible o s →
    let m := operandByte o s
    let loaded := fun i : Instr =>
      { noteOperand o s with
        flags := { s.flags with z := m == 0x00, n := m.getLsbD 7 }, remainingCycles := baseCycles s.params i }
    exec (.lda o) s = .next { loaded (.lda o) with a := m } ∧
    exec (.ldx o) s = .next { loaded (.ldx o) with x := m } ∧
    exec (.ldy o) s = .next { loaded (.ldy o) with y := m }

/-- R204, R205, R206: encodings and effect of the stores: one bus write of the register at the effective
address, no flag. -/
def Obligations.StoresWriteTheRegister : Prop :=
  (∀ (b : Byte) (w : Addr),
    encode (.sta (.zp b)) = some [0x85, b] ∧ encode (.sta (.zpx b)) = some [0x95, b] ∧
    encode (.sta (.abs w)) = some [0x8D, lo8 w, hi8 w] ∧ encode (.sta (.absx w)) = some [0x9D, lo8 w, hi8 w] ∧
    encode (.sta (.absy w)) = some [0x99, lo8 w, hi8 w] ∧ encode (.sta (.indx b)) = some [0x81, b] ∧
    encode (.sta (.indy b)) = some [0x91, b] ∧ encode (.sta (.imm b)) = none ∧
    encode (.stx (.zp b)) = some [0x86, b] ∧ encode (.stx (.zpy b)) = some [0x96, b] ∧
    encode (.stx (.abs w)) = some [0x8E, lo8 w, hi8 w] ∧
    encode (.sty (.zp b)) = some [0x84, b] ∧ encode (.sty (.zpx b)) = some [0x94, b] ∧
    encode (.sty (.abs w)) = some [0x8C, lo8 w, hi8 w]) ∧
  ∀ (o : Operand) (s : State), Accessible s.params (effAddr o s) →
    exec (.sta o) s = .next { poke s (effAddr o s) s.a with remainingCycles := baseCycles s.params (.sta o) } ∧
    exec (.stx o) s = .next { poke s (effAddr o s) s.x with remainingCycles := baseCycles s.params (.stx o) } ∧
    exec (.sty o) s = .next { poke s (effAddr o s) s.y with remainingCycles := baseCycles s.params (.sty o) }

/-- R207 to R212: encodings and effect of the transfers; TXS writes no flag. The cycle count is R200's and R590's:
the table's, whose default values are the spec's decision D3 (notes/assumptions/15.md). -/
def Obligations.TransfersCopyRegisters : Prop :=
  (encode .tax = some [0xAA] ∧ encode .tay = some [0xA8] ∧ encode .txa = some [0x8A] ∧
    encode .tya = some [0x98] ∧ encode .tsx = some [0xBA] ∧ encode .txs = some [0x9A]) ∧
  ∀ s : State,
    let zn := fun v : Byte => { s.flags with z := v == 0x00, n := v.getLsbD 7 }
    exec .tax s = .next { s with x := s.a, flags := zn s.a, remainingCycles := baseCycles s.params .tax } ∧
    exec .tay s = .next { s with y := s.a, flags := zn s.a, remainingCycles := baseCycles s.params .tay } ∧
    exec .txa s = .next { s with a := s.x, flags := zn s.x, remainingCycles := baseCycles s.params .txa } ∧
    exec .tya s = .next { s with a := s.y, flags := zn s.y, remainingCycles := baseCycles s.params .tya } ∧
    exec .tsx s = .next { s with x := s.sp, flags := zn s.sp, remainingCycles := baseCycles s.params .tsx } ∧
    exec .txs s = .next { s with sp := s.x, remainingCycles := baseCycles s.params .txs }

/-! ## Arithmetic (41_arithmetic.md) -/

/-- R230, R232, R233: encodings and effect of ADC and SBC: one adder, the operand complemented for SBC. -/
def Obligations.AdcSbcUseOneAdder : Prop :=
  (∀ (b : Byte) (w : Addr),
    encode (.adc (.imm b)) = some [0x69, b] ∧ encode (.adc (.zp b)) = some [0x65, b] ∧
    encode (.adc (.zpx b)) = some [0x75, b] ∧ encode (.adc (.abs w)) = some [0x6D, lo8 w, hi8 w] ∧
    encode (.adc (.absx w)) = some [0x7D, lo8 w, hi8 w] ∧ encode (.adc (.absy w)) = some [0x79, lo8 w, hi8 w] ∧
    encode (.adc (.indx b)) = some [0x61, b] ∧ encode (.adc (.indy b)) = some [0x71, b] ∧
    encode (.sbc (.imm b)) = some [0xE9, b] ∧ encode (.sbc (.zp b)) = some [0xE5, b] ∧
    encode (.sbc (.zpx b)) = some [0xF5, b] ∧ encode (.sbc (.abs w)) = some [0xED, lo8 w, hi8 w] ∧
    encode (.sbc (.absx w)) = some [0xFD, lo8 w, hi8 w] ∧ encode (.sbc (.absy w)) = some [0xF9, lo8 w, hi8 w] ∧
    encode (.sbc (.indx b)) = some [0xE1, b] ∧ encode (.sbc (.indy b)) = some [0xF1, b]) ∧
  ∀ (o : Operand) (s : State), OperandAccessible o s →
    let added := fun (i : Instr) (m : Byte) =>
      let t := s.a.toNat + m.toNat + (if s.flags.c then 1 else 0)
      let r : Byte := BitVec.ofNat 8 (t % 256)
      { noteOperand o s with
        a := r
        flags := { s.flags with
          c := decide (255 < t)
          v := (s.a.getLsbD 7 ^^ r.getLsbD 7) && !(s.a.getLsbD 7 ^^ m.getLsbD 7)
          z := r == 0x00
          n := r.getLsbD 7 }
        remainingCycles := baseCycles s.params i }
    exec (.adc o) s = .next (added (.adc o) (operandByte o s)) ∧
    exec (.sbc o) s = .next (added (.sbc o) (operandByte o s ^^^ 0xFF))

/-- R231: the laws of ADC and SBC in integers: the result, the unsigned carry (the complement of borrow for
SBC), the signed overflow. -/
def Obligations.AdcSbcIntegerLaws : Prop :=
  ∀ (o : Operand) (s t : State), OperandAccessible o s →
    let m := operandByte o s
    let cin : Int := if s.flags.c then 1 else 0
    (exec (.adc o) s = .next t →
      (t.a.toNat : Int) = (s.a.toNat + m.toNat + cin) % 256 ∧
      (t.flags.c = true ↔ 256 ≤ s.a.toNat + m.toNat + cin) ∧
      (t.flags.v = true ↔ s.a.toInt + m.toInt + cin < -128 ∨ 127 < s.a.toInt + m.toInt + cin)) ∧
    (exec (.sbc o) s = .next t →
      (t.a.toNat : Int) = (s.a.toNat - m.toNat - (1 - cin)) % 256 ∧
      (t.flags.c = true ↔ (m.toNat : Int) + (1 - cin) ≤ s.a.toNat) ∧
      (t.flags.v = true ↔
        s.a.toInt - m.toInt - (1 - cin) < -128 ∨ 127 < s.a.toInt - m.toInt - (1 - cin)))

/-- R234 to R237: encodings and effect of the compares: C, Z, N from the register and the operand, nothing
else written. -/
def Obligations.ComparesWriteFlagsOnly : Prop :=
  (∀ (b : Byte) (w : Addr),
    encode (.cmp (.imm b)) = some [0xC9, b] ∧ encode (.cmp (.zp b)) = some [0xC5, b] ∧
    encode (.cmp (.zpx b)) = some [0xD5, b] ∧ encode (.cmp (.abs w)) = some [0xCD, lo8 w, hi8 w] ∧
    encode (.cmp (.absx w)) = some [0xDD, lo8 w, hi8 w] ∧ encode (.cmp (.absy w)) = some [0xD9, lo8 w, hi8 w] ∧
    encode (.cmp (.indx b)) = some [0xC1, b] ∧ encode (.cmp (.indy b)) = some [0xD1, b] ∧
    encode (.cpx (.imm b)) = some [0xE0, b] ∧ encode (.cpx (.zp b)) = some [0xE4, b] ∧
    encode (.cpx (.abs w)) = some [0xEC, lo8 w, hi8 w] ∧
    encode (.cpy (.imm b)) = some [0xC0, b] ∧ encode (.cpy (.zp b)) = some [0xC4, b] ∧
    encode (.cpy (.abs w)) = some [0xCC, lo8 w, hi8 w]) ∧
  ∀ (o : Operand) (s : State), OperandAccessible o s →
    let compared := fun (i : Instr) (r : Byte) =>
      let m := operandByte o s
      { noteOperand o s with
        flags := { s.flags with
          c := decide (m.toNat ≤ r.toNat), z := r == m, n := (r - m).getLsbD 7 }
        remainingCycles := baseCycles s.params i }
    exec (.cmp o) s = .next (compared (.cmp o) s.a) ∧
    exec (.cpx o) s = .next (compared (.cpx o) s.x) ∧
    exec (.cpy o) s = .next (compared (.cpy o) s.y)

/-- R238, R239: encodings and effect of INC and DEC: one read and one write of the same address; C and V
are not written. -/
def Obligations.IncDecModifyMemory : Prop :=
  (∀ (b : Byte) (w : Addr),
    encode (.inc (.zp b)) = some [0xE6, b] ∧ encode (.inc (.zpx b)) = some [0xF6, b] ∧
    encode (.inc (.abs w)) = some [0xEE, lo8 w, hi8 w] ∧ encode (.inc (.absx w)) = some [0xFE, lo8 w, hi8 w] ∧
    encode (.dec (.zp b)) = some [0xC6, b] ∧ encode (.dec (.zpx b)) = some [0xD6, b] ∧
    encode (.dec (.abs w)) = some [0xCE, lo8 w, hi8 w] ∧ encode (.dec (.absx w)) = some [0xDE, lo8 w, hi8 w]) ∧
  ∀ (o : Operand) (s : State), Accessible s.params (effAddr o s) →
    let a := effAddr o s
    let stored := fun (i : Instr) (r : Byte) =>
      { poke (noteRead s a) a r with
        flags := { s.flags with z := r == 0x00, n := r.getLsbD 7 }
        remainingCycles := baseCycles s.params i }
    exec (.inc o) s = .next (stored (.inc o) (BitVec.ofNat 8 (((peek s a).toNat + 1) % 256))) ∧
    exec (.dec o) s = .next (stored (.dec o) (BitVec.ofNat 8 (((peek s a).toNat + 255) % 256)))

/-- R240 to R243: encodings and effect of INX, INY, DEX, DEY. The cycle count is R200's and R590's: the table's,
whose default values are the spec's decision D3 (notes/assumptions/15.md). -/
def Obligations.IndexRegistersCount : Prop :=
  (encode .inx = some [0xE8] ∧ encode .iny = some [0xC8] ∧ encode .dex = some [0xCA] ∧
    encode .dey = some [0x88]) ∧
  ∀ s : State,
    let zn := fun v : Byte => { s.flags with z := v == 0x00, n := v.getLsbD 7 }
    exec .inx s = .next { s with x := s.x + 1, flags := zn (s.x + 1), remainingCycles := baseCycles s.params .inx } ∧
    exec .iny s = .next { s with y := s.y + 1, flags := zn (s.y + 1), remainingCycles := baseCycles s.params .iny } ∧
    exec .dex s = .next { s with x := s.x - 1, flags := zn (s.x - 1), remainingCycles := baseCycles s.params .dex } ∧
    exec .dey s = .next { s with y := s.y - 1, flags := zn (s.y - 1), remainingCycles := baseCycles s.params .dey }

/-! ## Logic, bit test, shifts (42_logic_shift.md) -/

/-- R261, R262, R263: encodings and effect of AND, ORA, EOR. -/
def Obligations.LogicCombinesAccumulator : Prop :=
  (∀ (b : Byte) (w : Addr),
    encode (.and (.imm b)) = some [0x29, b] ∧ encode (.and (.zp b)) = some [0x25, b] ∧
    encode (.and (.zpx b)) = some [0x35, b] ∧ encode (.and (.abs w)) = some [0x2D, lo8 w, hi8 w] ∧
    encode (.and (.absx w)) = some [0x3D, lo8 w, hi8 w] ∧ encode (.and (.absy w)) = some [0x39, lo8 w, hi8 w] ∧
    encode (.and (.indx b)) = some [0x21, b] ∧ encode (.and (.indy b)) = some [0x31, b] ∧
    encode (.ora (.imm b)) = some [0x09, b] ∧ encode (.ora (.zp b)) = some [0x05, b] ∧
    encode (.ora (.zpx b)) = some [0x15, b] ∧ encode (.ora (.abs w)) = some [0x0D, lo8 w, hi8 w] ∧
    encode (.ora (.absx w)) = some [0x1D, lo8 w, hi8 w] ∧ encode (.ora (.absy w)) = some [0x19, lo8 w, hi8 w] ∧
    encode (.ora (.indx b)) = some [0x01, b] ∧ encode (.ora (.indy b)) = some [0x11, b] ∧
    encode (.eor (.imm b)) = some [0x49, b] ∧ encode (.eor (.zp b)) = some [0x45, b] ∧
    encode (.eor (.zpx b)) = some [0x55, b] ∧ encode (.eor (.abs w)) = some [0x4D, lo8 w, hi8 w] ∧
    encode (.eor (.absx w)) = some [0x5D, lo8 w, hi8 w] ∧ encode (.eor (.absy w)) = some [0x59, lo8 w, hi8 w] ∧
    encode (.eor (.indx b)) = some [0x41, b] ∧ encode (.eor (.indy b)) = some [0x51, b]) ∧
  ∀ (o : Operand) (s : State), OperandAccessible o s →
    let m := operandByte o s
    let result := fun (i : Instr) (r : Byte) =>
      { noteOperand o s with
        a := r
        flags := { s.flags with z := r == 0x00, n := r.getLsbD 7 }
        remainingCycles := baseCycles s.params i }
    exec (.and o) s = .next (result (.and o) (s.a &&& m)) ∧
    exec (.ora o) s = .next (result (.ora o) (s.a ||| m)) ∧
    exec (.eor o) s = .next (result (.eor o) (s.a ^^^ m))

/-- R264: encodings and effect of BIT; its examples with the status register follow from
`BusReadFollowsPrecedence` and `PpuWindowHoldsNoState`. -/
def Obligations.BitTestsMemory : Prop :=
  (∀ (b : Byte) (w : Addr),
    encode (.bit (.zp b)) = some [0x24, b] ∧ encode (.bit (.abs w)) = some [0x2C, lo8 w, hi8 w] ∧
    encode (.bit (.imm b)) = none) ∧
  ∀ (o : Operand) (s : State), OperandAccessible o s →
    let m := operandByte o s
    exec (.bit o) s = .next { noteOperand o s with
      flags := { s.flags with z := (s.a &&& m) == 0x00, n := m.getLsbD 7, v := m.getLsbD 6 }
      remainingCycles := baseCycles s.params (.bit o) }

/-- R265 to R269: encodings and effect of ASL, LSR, ROL, ROR on the accumulator and on memory, the results
in integers; V and I are not written. The cycle count is R200's and R590's: the table's, whose default values are
the spec's decision D3 (notes/assumptions/15.md). -/
def Obligations.ShiftsMoveBitsThroughCarry : Prop :=
  (∀ (b : Byte) (w : Addr),
    encode (.asl .acc) = some [0x0A] ∧ encode (.asl (.mem (.zp b))) = some [0x06, b] ∧
    encode (.asl (.mem (.zpx b))) = some [0x16, b] ∧ encode (.asl (.mem (.abs w))) = some [0x0E, lo8 w, hi8 w] ∧
    encode (.asl (.mem (.absx w))) = some [0x1E, lo8 w, hi8 w] ∧
    encode (.lsr .acc) = some [0x4A] ∧ encode (.lsr (.mem (.zp b))) = some [0x46, b] ∧
    encode (.lsr (.mem (.zpx b))) = some [0x56, b] ∧ encode (.lsr (.mem (.abs w))) = some [0x4E, lo8 w, hi8 w] ∧
    encode (.lsr (.mem (.absx w))) = some [0x5E, lo8 w, hi8 w] ∧
    encode (.rol .acc) = some [0x2A] ∧ encode (.rol (.mem (.zp b))) = some [0x26, b] ∧
    encode (.rol (.mem (.zpx b))) = some [0x36, b] ∧ encode (.rol (.mem (.abs w))) = some [0x2E, lo8 w, hi8 w] ∧
    encode (.rol (.mem (.absx w))) = some [0x3E, lo8 w, hi8 w] ∧
    encode (.ror .acc) = some [0x6A] ∧ encode (.ror (.mem (.zp b))) = some [0x66, b] ∧
    encode (.ror (.mem (.zpx b))) = some [0x76, b] ∧ encode (.ror (.mem (.abs w))) = some [0x6E, lo8 w, hi8 w] ∧
    encode (.ror (.mem (.absx w))) = some [0x7E, lo8 w, hi8 w]) ∧
  ∀ s : State,
    let cin := if s.flags.c then 1 else 0
    let left := fun (v : Byte) (k : Nat) => (BitVec.ofNat 8 ((2 * v.toNat + k) % 256) : Byte)
    let right := fun (v : Byte) (k : Nat) => (BitVec.ofNat 8 (v.toNat / 2 + 128 * k) : Byte)
    let flags := fun (r : Byte) (c : Bool) => { s.flags with c := c, z := r == 0x00, n := r.getLsbD 7 }
    let acc := fun (i : Instr) (r : Byte) (c : Bool) =>
      { s with a := r, flags := flags r c, remainingCycles := baseCycles s.params i }
    (exec (.asl .acc) s = .next (acc (.asl .acc) (left s.a 0) (s.a.getLsbD 7)) ∧
     exec (.lsr .acc) s = .next (acc (.lsr .acc) (right s.a 0) (s.a.getLsbD 0)) ∧
     exec (.rol .acc) s = .next (acc (.rol .acc) (left s.a cin) (s.a.getLsbD 7)) ∧
     exec (.ror .acc) s = .next (acc (.ror .acc) (right s.a cin) (s.a.getLsbD 0))) ∧
    ∀ o : Operand, Accessible s.params (effAddr o s) →
      let a := effAddr o s
      let v := peek s a
      let mem := fun (i : Instr) (r : Byte) (c : Bool) =>
        { poke (noteRead s a) a r with flags := flags r c, remainingCycles := baseCycles s.params i }
      exec (.asl (.mem o)) s = .next (mem (.asl (.mem o)) (left v 0) (v.getLsbD 7)) ∧
      exec (.lsr (.mem o)) s = .next (mem (.lsr (.mem o)) (right v 0) (v.getLsbD 0)) ∧
      exec (.rol (.mem o)) s = .next (mem (.rol (.mem o)) (left v cin) (v.getLsbD 7)) ∧
      exec (.ror (.mem o)) s = .next (mem (.ror (.mem o)) (right v cin) (v.getLsbD 0))

/-! ## Addressing modes (30_encoding.md) -/

/-- R132 to R138, R140, R141: the effective address of every memory mode in integers, with no other
effect, and the operand bytes that PC passes over; the zero-page modes wrap in page 0, the others modulo 65536.
The rules let `EA` itself advance PC past the operand; here the fetch has done so (R24 and this model's inference,
notes/assumptions/11.md), so Immediate's address is the byte before PC, the state does not change, and how far PC
has moved is `operandBytes`. -/
def Obligations.EffectiveAddressesWrap : Prop :=
  ∀ (b : Byte) (w : Addr) (s : State),
    let pointer := fun p : Nat => 256 * (s.ram.read ((p + 1) % 256)).toNat + (s.ram.read p).toNat
    ea (.imm b) s = .ok (BitVec.ofNat 16 ((s.pc.toNat + 65535) % 65536)) s ∧
    ea (.zp b) s = .ok (BitVec.ofNat 16 b.toNat) s ∧
    ea (.zpx b) s = .ok (BitVec.ofNat 16 ((b.toNat + s.x.toNat) % 256)) s ∧
    ea (.zpy b) s = .ok (BitVec.ofNat 16 ((b.toNat + s.y.toNat) % 256)) s ∧
    ea (.abs w) s = .ok w s ∧
    ea (.absx w) s = .ok (BitVec.ofNat 16 ((w.toNat + s.x.toNat) % 65536)) s ∧
    ea (.absy w) s = .ok (BitVec.ofNat 16 ((w.toNat + s.y.toNat) % 65536)) s ∧
    ea (.indx b) s = .ok (BitVec.ofNat 16 (pointer ((b.toNat + s.x.toNat) % 256))) s ∧
    ea (.indy b) s = .ok (BitVec.ofNat 16 ((pointer b.toNat + s.y.toNat) % 65536)) s ∧
    (∀ f ∈ [Operand.imm, .zp, .zpx, .zpy, .indx, .indy], (f b).operandBytes = 1) ∧
    (∀ f ∈ [Operand.abs, .absx, .absy], (f w).operandBytes = 2)

/-! ## Control (43_control.md) -/

/-- R290 to R298: encodings and effect of the eight branches: PC alone changes, by the signed offset,
when the condition holds. PC is already past the operand byte. With the default cycle table the count is 2. -/
def Obligations.BranchesAddSignedOffset : Prop :=
  (∀ b : Byte,
    encode (.bcc b) = some [0x90, b] ∧ encode (.bcs b) = some [0xB0, b] ∧
    encode (.beq b) = some [0xF0, b] ∧ encode (.bne b) = some [0xD0, b] ∧
    encode (.bmi b) = some [0x30, b] ∧ encode (.bpl b) = some [0x10, b] ∧
    encode (.bvc b) = some [0x50, b] ∧ encode (.bvs b) = some [0x70, b]) ∧
  ∀ (b : Byte) (s : State),
    let branched := fun (i : Instr) (cond : Bool) =>
      { s with
        pc := if cond then BitVec.ofInt 16 (s.pc.toNat + b.toInt) else s.pc
        remainingCycles := baseCycles s.params i }
    exec (.bcc b) s = .next (branched (.bcc b) (!s.flags.c)) ∧
    exec (.bcs b) s = .next (branched (.bcs b) s.flags.c) ∧
    exec (.beq b) s = .next (branched (.beq b) s.flags.z) ∧
    exec (.bne b) s = .next (branched (.bne b) (!s.flags.z)) ∧
    exec (.bmi b) s = .next (branched (.bmi b) s.flags.n) ∧
    exec (.bpl b) s = .next (branched (.bpl b) (!s.flags.n)) ∧
    exec (.bvc b) s = .next (branched (.bvc b) (!s.flags.v)) ∧
    exec (.bvs b) s = .next (branched (.bvs b) s.flags.v) ∧
    ∀ f ∈ [Instr.bcc, .bcs, .beq, .bne, .bmi, .bpl, .bvc, .bvs], baseCycles Config.defaultParams (f b) = 2

/-- R299, R139: encodings and effect of JMP. The indirect form takes its high byte from the true successor
of the pointer (the spec's decision D11). Where the pointer cannot be read it raises the hard fault (R94, R506, the
spec's decision D24); that the state at the abort keeps the first read's mark is this model's inference
(notes/assumptions/12.md). -/
def Obligations.JmpReplacesPc : Prop :=
  (∀ w : Addr,
    encode (.jmp (.abs w)) = some [0x4C, lo8 w, hi8 w] ∧ encode (.jmp (.ind w)) = some [0x6C, lo8 w, hi8 w]) ∧
  ∀ (w : Addr) (s : State),
    exec (.jmp (.abs w)) s = .next { s with pc := w, remainingCycles := baseCycles s.params (.jmp (.abs w)) } ∧
    (Accessible s.params w → Accessible s.params (w + 1) →
      exec (.jmp (.ind w)) s = .next { noteRead (noteRead s w) (w + 1) with
        pc := word (peek s (w + 1)) (peek s w), remainingCycles := baseCycles s.params (.jmp (.ind w)) }) ∧
    (¬ Accessible s.params w →
      exec (.jmp (.ind w)) s = .fault (.hardFault (.prgIndexOutOfBounds w (w.toNat % 0x4000))
        { s with fault := some (.prgIndexOutOfBounds w (w.toNat % 0x4000)) })) ∧
    (Accessible s.params w → ¬ Accessible s.params (w + 1) →
      exec (.jmp (.ind w)) s = .fault (.hardFault (.prgIndexOutOfBounds (w + 1) ((w + 1).toNat % 0x4000))
        { noteRead s w with fault := some (.prgIndexOutOfBounds (w + 1) ((w + 1).toNat % 0x4000)) }))

/-- R300, R301: encodings and effect of JSR and RTS. PC is the return address at JSR's effect. The cycle count is
R590's: the table's, whose default values are the spec's decision D3 (notes/assumptions/15.md). -/
def Obligations.JsrPushesAndRtsPops : Prop :=
  ((∀ w : Addr, encode (.jsr w) = some [0x20, lo8 w, hi8 w]) ∧ encode .rts = some [0x60]) ∧
  ∀ s : State,
    (∀ w : Addr, exec (.jsr w) s = .next { s with
      pc := w
      sp := s.sp - 2
      ram := (s.ram.write (0x100 + (s.sp - 1).toNat) (hi8 (s.pc - 1))).write
        (0x100 + (s.sp - 2).toNat) (lo8 (s.pc - 1))
      remainingCycles := baseCycles s.params (.jsr w) }) ∧
    exec .rts s = .next { s with
      pc := word ((s.ram.write (0x100 + s.sp.toNat) 0x00).read (0x100 + (s.sp + 1).toNat))
        (s.ram.read (0x100 + s.sp.toNat)) + 1
      sp := s.sp + 2
      ram := (s.ram.write (0x100 + s.sp.toNat) 0x00).write (0x100 + (s.sp + 1).toNat) 0x00
      remainingCycles := baseCycles s.params .rts }

/-- R302: after a JSR, whatever runs next, an RTS executed with the stack balanced and the two return bytes not
overwritten resumes at the instruction after the JSR with SP restored and both slots zero. Canonical RAM is a
premise, kept by every step. -/
def Obligations.RtsReturnsAfterJsr : Prop :=
  ∀ (w : Addr) (s t u : State), s.ram.wf = true → exec (.jsr w) s = .next t →
    u.ram.wf = true → u.sp = t.sp →
    (∀ k ∈ [s.sp - 1, s.sp - 2], u.ram.read (0x100 + k.toNat) = t.ram.read (0x100 + k.toNat)) →
    ∃ r, exec .rts u = .next r ∧ r.pc = s.pc ∧ r.sp = s.sp ∧
      r.ram.read (0x100 + (s.sp - 1).toNat) = 0x00 ∧ r.ram.read (0x100 + (s.sp - 2).toNat) = 0x00

/-! ## Stack, flag and system instructions (44_stack_flag_system.md) -/

/-- R320 to R323: encodings and effect of PHA, PLA, PHP, PLP. The cycle count is R590's: the table's, whose default
values are the spec's decision D3 (notes/assumptions/15.md). -/
def Obligations.StackInstructionsPushAndPull : Prop :=
  (encode .pha = some [0x48] ∧ encode .pla = some [0x68] ∧ encode .php = some [0x08] ∧
    encode .plp = some [0x28]) ∧
  ∀ s : State,
    let slot := s.ram.read (0x100 + s.sp.toNat)
    let pushed := fun (i : Instr) (v : Byte) =>
      { s with
        sp := s.sp - 1, ram := s.ram.write (0x100 + (s.sp - 1).toNat) v, remainingCycles := baseCycles s.params i }
    let pulled := fun i : Instr =>
      { s with
        sp := s.sp + 1, ram := s.ram.write (0x100 + s.sp.toNat) 0x00, remainingCycles := baseCycles s.params i }
    exec .pha s = .next (pushed .pha s.a) ∧
    exec .php s = .next (pushed .php s.flags.pack) ∧
    exec .pla s = .next { pulled .pla with
      a := slot, flags := { s.flags with z := slot == 0x00, n := slot.getLsbD 7 } } ∧
    exec .plp s = .next { pulled .plp with
      flags := { n := slot.getLsbD 0, v := slot.getLsbD 1, i := slot.getLsbD 5, z := slot.getLsbD 6,
                 c := slot.getLsbD 7 } }

/-- R325 to R329, R333: encodings and effect of CLC, SEC, CLI, SEI, CLV and NOP. The cycle count is R590's: the
table's, whose default values are the spec's decision D3 (notes/assumptions/15.md). -/
def Obligations.FlagInstructionsSetOneFlag : Prop :=
  (encode .clc = some [0x18] ∧ encode .sec = some [0x38] ∧ encode .cli = some [0x58] ∧
    encode .sei = some [0x78] ∧ encode .clv = some [0xB8] ∧ encode .nop = some [0xEA]) ∧
  ∀ s : State,
    exec .clc s = .next { s with flags := { s.flags with c := false }, remainingCycles := baseCycles s.params .clc } ∧
    exec .sec s = .next { s with flags := { s.flags with c := true }, remainingCycles := baseCycles s.params .sec } ∧
    exec .cli s = .next { s with flags := { s.flags with i := false }, remainingCycles := baseCycles s.params .cli } ∧
    exec .sei s = .next { s with flags := { s.flags with i := true }, remainingCycles := baseCycles s.params .sei } ∧
    exec .clv s = .next { s with flags := { s.flags with v := false }, remainingCycles := baseCycles s.params .clv } ∧
    exec .nop s = .next { s with remainingCycles := baseCycles s.params .nop }

/-- R330, R331, the spec's decision D5: CLD and SED have no architectural effect. R155, R340: an undefined
opcode byte is an instruction of one byte, records `illegal_opcode` and changes nothing else; that
`remaining_cycles` is not written is the spec's decision D30. -/
def Obligations.DecimalAndUndefinedOpcodesHaveNoEffect : Prop :=
  (encode .cld = some [0xD8] ∧ encode .sed = some [0xF8]) ∧
  (∀ op ∈ undefinedOpcodes, decode [op] = .ok (.undefined op, [])) ∧
  ∀ s : State,
    exec .cld s = .next { s with remainingCycles := baseCycles s.params .cld } ∧
    exec .sed s = .next { s with remainingCycles := baseCycles s.params .sed } ∧
    ∀ op : Byte, exec (.undefined op) s = .next { s with diag := { s.diag with illegalOpcode := true } }

/-- R334, R510, R511: BRK. With I set, nothing but the cycle count. With I clear: PC high, PC low and the
flag byte are pushed and PC is loaded from the vector; no flag is written. The PC pushed and the flags kept
are the spec's decisions D7 and D8. Where the vector cannot be read (no PRG bank) the hard fault is raised (R94,
R506, the spec's decision D24); that the state at the abort keeps the pushes is this model's inference
(notes/assumptions/12.md). -/
def Obligations.BrkTakesTheTrap : Prop :=
  encode .brk = some [0x00] ∧
  ∀ s : State,
    let pushed := { s with
      sp := s.sp - 3
      ram := ((s.ram.write (0x100 + (s.sp - 1).toNat) (hi8 s.pc)).write
        (0x100 + (s.sp - 2).toNat) (lo8 s.pc)).write (0x100 + (s.sp - 3).toNat) s.flags.pack }
    (s.flags.i = true → exec .brk s = .next { s with remainingCycles := baseCycles s.params .brk }) ∧
    (s.flags.i = false → 0 < s.params.prgBanks.val →
      exec .brk s = .next { pushed with
        pc := word (peek s 0xFFFF) (peek s 0xFFFE), remainingCycles := baseCycles s.params .brk }) ∧
    (s.flags.i = false → s.params.prgBanks.val = 0 →
      exec .brk s = .fault (.hardFault (.prgIndexOutOfBounds 0xFFFE 0x3FFE)
        { pushed with fault := some (.prgIndexOutOfBounds 0xFFFE 0x3FFE) }))

/-- R335, R514: RTI pops the flags, then returns as RTS does, to the popped word plus one (the spec's
decision D9). -/
def Obligations.RtiRestoresFlagsAndReturns : Prop :=
  encode .rti = some [0x40] ∧
  ∀ s : State,
    let b := s.ram.read (0x100 + s.sp.toNat)
    let ram1 := s.ram.write (0x100 + s.sp.toNat) 0x00
    let ram2 := ram1.write (0x100 + (s.sp + 1).toNat) 0x00
    exec .rti s = .next { s with
      flags := { n := b.getLsbD 0, v := b.getLsbD 1, i := b.getLsbD 5, z := b.getLsbD 6, c := b.getLsbD 7 }
      pc := word (ram2.read (0x100 + (s.sp + 2).toNat)) (ram1.read (0x100 + (s.sp + 1).toNat)) + 1
      sp := s.sp + 3
      ram := ram2.write (0x100 + (s.sp + 2).toNat) 0x00
      remainingCycles := baseCycles s.params .rti }

/-- R335, R514: after a BRK that is taken, whatever runs next, an RTI executed with the stack balanced and the
three pushed bytes not overwritten resumes at the address of the BRK plus 2 (PC is the BRK's address plus 1), with
the flags and SP of before and the three slots zero. Rests on the spec's decisions D7, D8, D9. Canonical RAM is a
premise. -/
def Obligations.RtiResumesTwoBytesAfterBrk : Prop :=
  ∀ (s t u : State), s.ram.wf = true → s.flags.i = false → exec .brk s = .next t →
    u.ram.wf = true → u.sp = t.sp →
    (∀ k ∈ [s.sp - 1, s.sp - 2, s.sp - 3], u.ram.read (0x100 + k.toNat) = t.ram.read (0x100 + k.toNat)) →
    ∃ r, exec .rti u = .next r ∧ r.pc = s.pc + 1 ∧ r.flags = s.flags ∧ r.sp = s.sp ∧
      r.ram.read (0x100 + (s.sp - 1).toNat) = 0x00 ∧ r.ram.read (0x100 + (s.sp - 2).toNat) = 0x00 ∧
      r.ram.read (0x100 + (s.sp - 3).toNat) = 0x00

/-! ## What instructions leave alone -/

/-- R21, R22, R23, R24: which instructions write each register; PC, which is already past the instruction, is
replaced only by the branches, JMP, JSR, RTS, RTI and BRK. -/
def Obligations.RegistersWrittenOnlyByTheirInstructions : Prop :=
  ∀ (i : Instr) (s t : State), exec i s = .next t →
    (t.a ≠ s.a → (∃ o, i = .lda o ∨ i = .adc o ∨ i = .sbc o ∨ i = .and o ∨ i = .ora o ∨ i = .eor o) ∨
      i = .txa ∨ i = .tya ∨ i = .pla ∨ i = .asl .acc ∨ i = .lsr .acc ∨ i = .rol .acc ∨ i = .ror .acc) ∧
    (t.x ≠ s.x → (∃ o, i = .ldx o) ∨ i = .tax ∨ i = .tsx ∨ i = .inx ∨ i = .dex) ∧
    (t.y ≠ s.y → (∃ o, i = .ldy o) ∨ i = .tay ∨ i = .iny ∨ i = .dey) ∧
    (t.sp ≠ s.sp → i = .txs ∨ i = .pha ∨ i = .pla ∨ i = .php ∨ i = .plp ∨ i = .brk ∨ i = .rti ∨
      i = .rts ∨ ∃ w, i = .jsr w) ∧
    (t.pc ≠ s.pc →
      (∃ b, i = .bcc b ∨ i = .bcs b ∨ i = .beq b ∨ i = .bne b ∨ i = .bmi b ∨ i = .bpl b ∨ i = .bvc b ∨
        i = .bvs b) ∨ (∃ w, i = .jmp w) ∨ (∃ w, i = .jsr w) ∨ i = .rts ∨ i = .rti ∨ i = .brk)

/-- R30: which instructions write each flag (the table is the spec's decision D4, and that BRK does not
write I its decision D8). -/
def Obligations.FlagsWrittenOnlyByTheirInstructions : Prop :=
  ∀ (i : Instr) (s t : State), exec i s = .next t →
    let writesNZ :=
      (∃ o, i = .lda o ∨ i = .ldx o ∨ i = .ldy o ∨ i = .adc o ∨ i = .sbc o ∨ i = .cmp o ∨ i = .cpx o ∨
        i = .cpy o ∨ i = .inc o ∨ i = .dec o ∨ i = .and o ∨ i = .ora o ∨ i = .eor o ∨ i = .bit o) ∨
      (∃ o, i = .asl o ∨ i = .lsr o ∨ i = .rol o ∨ i = .ror o) ∨
      i = .tax ∨ i = .tay ∨ i = .txa ∨ i = .tya ∨ i = .tsx ∨ i = .pla ∨ i = .inx ∨ i = .iny ∨
      i = .dex ∨ i = .dey ∨ i = .plp ∨ i = .rti
    (t.flags.n ≠ s.flags.n → writesNZ) ∧
    (t.flags.z ≠ s.flags.z → writesNZ) ∧
    (t.flags.i ≠ s.flags.i → i = .sei ∨ i = .cli ∨ i = .plp ∨ i = .rti) ∧
    (t.flags.v ≠ s.flags.v →
      (∃ o, i = .adc o ∨ i = .sbc o ∨ i = .bit o) ∨ i = .clv ∨ i = .plp ∨ i = .rti) ∧
    (t.flags.c ≠ s.flags.c →
      (∃ o, i = .adc o ∨ i = .sbc o ∨ i = .cmp o ∨ i = .cpx o ∨ i = .cpy o) ∨
      (∃ o, i = .asl o ∨ i = .lsr o ∨ i = .rol o ∨ i = .ror o) ∨
      i = .clc ∨ i = .sec ∨ i = .plp ∨ i = .rti) ∧
    ((∃ o, i = .sta o ∨ i = .stx o ∨ i = .sty o) ∨ (∃ t, i = .jmp t) ∨ (∃ w, i = .jsr w) ∨
      (∃ b, i = .bcc b ∨ i = .bcs b ∨ i = .beq b ∨ i = .bne b ∨ i = .bmi b ∨ i = .bpl b ∨ i = .bvc b ∨
        i = .bvs b ∨ i = .undefined b) ∨
      i = .txs ∨ i = .pha ∨ i = .php ∨ i = .rts ∨ i = .nop ∨ i = .cld ∨ i = .sed ∨ i = .brk →
      t.flags = s.flags)

/-- R92 (for CHR), R41, R42, R44, R8: no instruction changes character memory, the PPU, the divider phase or
the parameters, and none sets FAULT and goes on. -/
def Obligations.InstructionsLeavePpuSideAlone : Prop :=
  ∀ (i : Instr) (s t : State), exec i s = .next t →
    t.chr = s.chr ∧ t.ppu = s.ppu ∧ t.phase = s.phase ∧ t.params = s.params ∧ t.fault = s.fault

/-- R201 to R203, R230 to R237, R261 to R264, R207 to R212, R240 to R243, R290 to R299, R325 to R333, R340:
an instruction that stores nothing leaves every byte of memory as it was, the accumulator forms of the
shifts and a suppressed BRK among them. -/
def Obligations.NonStoringInstructionsKeepMemory : Prop :=
  ∀ (i : Instr) (s t : State), exec i s = .next t →
    (∀ o, i ≠ .sta o ∧ i ≠ .stx o ∧ i ≠ .sty o ∧ i ≠ .inc o ∧ i ≠ .dec o ∧
      i ≠ .asl (.mem o) ∧ i ≠ .lsr (.mem o) ∧ i ≠ .rol (.mem o) ∧ i ≠ .ror (.mem o)) →
    (∀ w, i ≠ .jsr w) → i ≠ .rts → i ≠ .pha → i ≠ .pla → i ≠ .php → i ≠ .plp → i ≠ .rti →
    (i = .brk → s.flags.i = true) →
    ∀ b : Addr, peek t b = peek s b

/-- R204 to R206, R238, R239, R265: an instruction that stores to its operand changes no byte but the one at
the effective address (every alias of it), the address being the one that its meaning computes. -/
def Obligations.StoringInstructionsChangeOneByte : Prop :=
  ∀ (o : Operand) (a : Addr) (i : Instr) (s s1 t : State), ea o s = .ok a s1 →
    i = .sta o ∨ i = .stx o ∨ i = .sty o ∨ i = .inc o ∨ i = .dec o ∨ i = .asl (.mem o) ∨
      i = .lsr (.mem o) ∨ i = .rol (.mem o) ∨ i = .ror (.mem o) →
    exec i s = .next t →
    ∀ b : Addr, place s.params b ≠ place s.params a → peek t b = peek s b

/-- R300, R301, R320 to R323, R334, R335: a stack instruction changes no byte but the slots it pushes or pops. -/
def Obligations.StackInstructionsChangeTheirSlots : Prop :=
  ∀ (s t : State) (b : Addr),
    let away := fun a : Addr => place s.params b ≠ place s.params a
    let kept := peek t b = peek s b
    (exec .pha s = .next t ∨ exec .php s = .next t → away (stackAddr (s.sp - 1)) → kept) ∧
    (exec .pla s = .next t ∨ exec .plp s = .next t → away (stackAddr s.sp) → kept) ∧
    ((∃ w, exec (.jsr w) s = .next t) →
      away (stackAddr (s.sp - 1)) → away (stackAddr (s.sp - 2)) → kept) ∧
    (exec .rts s = .next t → away (stackAddr s.sp) → away (stackAddr (s.sp + 1)) → kept) ∧
    (exec .brk s = .next t → away (stackAddr (s.sp - 1)) → away (stackAddr (s.sp - 2)) →
      away (stackAddr (s.sp - 3)) → kept) ∧
    (exec .rti s = .next t → away (stackAddr s.sp) → away (stackAddr (s.sp + 1)) →
      away (stackAddr (s.sp + 2)) → kept)

/-! ## Completion, timing, hard fault -/

/-- R11, R504, R506: with a PRG bank present every instruction completes, whatever the state and the operands,
and writes its base cycle count (R120, R590), an undefined opcode excepted, which leaves `remaining_cycles` as it was
(R340, the spec's decision D30; notes/assumptions/25.md). -/
def Obligations.EveryInstructionCompletes : Prop :=
  ∀ (i : Instr) (s : State), 0 < s.params.prgBanks.val →
    ∃ t, exec i s = .next t ∧
      ((∀ op, i ≠ .undefined op) → t.remainingCycles = baseCycles s.params i) ∧
      ((∃ op, i = .undefined op) → t.remainingCycles = s.remainingCycles)

/-- R590, R591: the count of an instruction is the one that the cycle table gives its opcode byte, in 1..7,
whatever its operands; and the default table gives every mnemonic and mode its count of R590 (the spec's decision
D3; notes/assumptions/15.md). -/
def Obligations.BaseCyclesAreTheTable : Prop :=
  (∀ (p : Config.Params) (i : Instr) (op : Byte) (rest : List Byte), encode i = some (op :: rest) →
    baseCycles p i = p.cycleCount op ∧ 1 ≤ p.cycleCount op ∧ p.cycleCount op ≤ 7) ∧
  ∀ (b : Byte) (w : Addr),
    let count := baseCycles Config.defaultParams
    (∀ f ∈ [Instr.lda, .adc, .sbc, .cmp, .and, .ora, .eor],
      count (f (.imm b)) = 2 ∧ count (f (.zp b)) = 3 ∧ count (f (.zpx b)) = 4 ∧
      count (f (.abs w)) = 4 ∧ count (f (.absx w)) = 4 ∧ count (f (.absy w)) = 4 ∧
      count (f (.indx b)) = 6 ∧ count (f (.indy b)) = 5) ∧
    (count (.ldx (.imm b)) = 2 ∧ count (.ldx (.zp b)) = 3 ∧ count (.ldx (.zpy b)) = 4 ∧
      count (.ldx (.abs w)) = 4 ∧ count (.ldx (.absy w)) = 4) ∧
    (count (.ldy (.imm b)) = 2 ∧ count (.ldy (.zp b)) = 3 ∧ count (.ldy (.zpx b)) = 4 ∧
      count (.ldy (.abs w)) = 4 ∧ count (.ldy (.absx w)) = 4) ∧
    (∀ f ∈ [Instr.cpx, .cpy],
      count (f (.imm b)) = 2 ∧ count (f (.zp b)) = 3 ∧ count (f (.abs w)) = 4) ∧
    (count (.bit (.zp b)) = 3 ∧ count (.bit (.abs w)) = 4) ∧
    (count (.sta (.zp b)) = 3 ∧ count (.sta (.zpx b)) = 4 ∧ count (.sta (.abs w)) = 4 ∧
      count (.sta (.absx w)) = 5 ∧ count (.sta (.absy w)) = 5 ∧
      count (.sta (.indx b)) = 6 ∧ count (.sta (.indy b)) = 6) ∧
    (count (.stx (.zp b)) = 3 ∧ count (.stx (.zpy b)) = 4 ∧ count (.stx (.abs w)) = 4) ∧
    (count (.sty (.zp b)) = 3 ∧ count (.sty (.zpx b)) = 4 ∧ count (.sty (.abs w)) = 4) ∧
    (∀ f ∈ [Instr.inc, .dec],
      count (f (.zp b)) = 5 ∧ count (f (.zpx b)) = 6 ∧ count (f (.abs w)) = 6 ∧
      count (f (.absx w)) = 7) ∧
    (∀ f ∈ [Instr.asl, .lsr, .rol, .ror],
      count (f .acc) = 2 ∧ count (f (.mem (.zp b))) = 5 ∧ count (f (.mem (.zpx b))) = 6 ∧
      count (f (.mem (.abs w))) = 6 ∧ count (f (.mem (.absx w))) = 7) ∧
    (∀ f ∈ [Instr.bcc, .bcs, .beq, .bne, .bmi, .bpl, .bvc, .bvs], count (f b) = 2) ∧
    (count (.jmp (.abs w)) = 3 ∧ count (.jmp (.ind w)) = 5 ∧ count (.jsr w) = 6) ∧
    (∀ i ∈ [Instr.tax, .tay, .txa, .tya, .tsx, .txs, .inx, .iny, .dex, .dey, .clc, .sec, .cli, .sei, .clv,
      .cld, .sed, .nop], count i = 2) ∧
    (count .pha = 3 ∧ count .php = 3 ∧ count .pla = 4 ∧ count .plp = 4 ∧
      count .rts = 6 ∧ count .rti = 6 ∧ count .brk = 7)

/-- R94, R200, R506 (what a fault is, is the spec's decision D24; notes/assumptions/12.md): an instruction
whose operand is not accessible stops with the hard fault, naming the address and offset; the state at the abort
differs in FAULT alone. -/
def Obligations.InaccessibleOperandIsHardFault : Prop :=
  ∀ (o : Operand) (s : State), ¬ Accessible s.params (effAddr o s) →
    let info := HardFault.prgIndexOutOfBounds (effAddr o s) ((effAddr o s).toNat % 0x4000)
    let stopped := Fault.hardFault info { s with fault := some info }
    ((∀ b, o ≠ .imm b) →
      ∀ f ∈ [Instr.lda, .ldx, .ldy, .adc, .sbc, .cmp, .cpx, .cpy, .and, .ora, .eor, .bit],
        exec (f o) s = .fault stopped) ∧
    (∀ f ∈ [Instr.sta, .stx, .sty, .inc, .dec], exec (f o) s = .fault stopped) ∧
    (∀ f ∈ [Instr.asl, .lsr, .rol, .ror], exec (f (.mem o)) s = .fault stopped)

/-! ## The step -/

/-- R120, R570, R572: in a tick that clocks the CPU with no cycles left, when the bytes at PC decode to an
instruction whose bytes are accessible, the step is `exec` of it, on the state after the PPU's tick and the
fetch (PC past the instruction), followed by the decrement and the phase. That the tick runs in this order
and with these counters is the spec's decisions D18, D19. -/
def Obligations.StepRunsTheDecodedInstruction : Prop :=
  ∀ (s : State) (i : Instr) (rest : List Byte),
    s.fault = none → s.phase = 0 → s.remainingCycles = 0 →
    decode (bytesAtPc s) = .ok (i, rest) →
    (∀ k < i.length, Accessible s.params (s.pc + BitVec.ofNat 16 k)) →
    step s =
      match exec i (fetched i.length { s with ppu := s.ppu.run }) with
      | .next t => .next { t with remainingCycles := t.remainingCycles - 1, phase := 1 }
      | .fault r => .fault r
      | .refused r => .refused r

/-- R570, R571, R572: every tick advances the PPU by one step and the phase by one; a tick in another phase than
0, or with cycles left, counts and does nothing else (D18, D19). -/
def Obligations.EveryTickRunsThePpuOnce : Prop :=
  (∀ s t : State, step s = .next t → t.ppu = s.ppu.run ∧ t.phase = s.phase + 1) ∧
  ∀ s : State, s.fault = none →
    (s.phase ≠ 0 → step s = .next { s with ppu := s.ppu.run, phase := s.phase + 1 }) ∧
    (s.phase = 0 → 0 < s.remainingCycles →
      step s = .next { s with
        ppu := s.ppu.run, remainingCycles := s.remainingCycles - 1, phase := 1 })

/-- R46, R506 (D24): a block whose FAULT is set takes no further step, and a fetch from an address that is
not accessible stops with the hard fault after the PPU's tick. That every host action on such a block answers the
fault again is this model's choice (notes/assumptions/20.md), and that the abandoned tick does not advance the phase
its inference (notes/assumptions/12.md). -/
def Obligations.FaultedBlockTakesNoStep : Prop :=
  (∀ (s : State) (info : HardFault), s.fault = some info →
    step s = .fault (.hardFault info s) ∧ ∀ h : HostAction, hostAct h s = .fault (.hardFault info s)) ∧
  (∀ s : State, s.fault = none → s.phase = 0 → s.remainingCycles = 0 → ¬ Accessible s.params s.pc →
    let info := HardFault.prgIndexOutOfBounds s.pc (s.pc.toNat % 0x4000)
    step s = .fault (.hardFault info { s with ppu := s.ppu.run, fault := some info }))

/-- R115: a byte stored through the bus is what the next fetch from that address reads. Canonical memories
are a premise. -/
def Obligations.StoredByteIsFetched : Prop :=
  ∀ (s t : State) (v : Byte), s.ram.wf = true → s.prg.wf = true → storable s.params s.pc = true →
    cpuBusWrite s.pc v s = .ok () t → fetch8 t = .ok v { t with pc := s.pc + 1 }

/-- R572, R573, R574: an instruction of base count n spans 3n ticks, an undefined opcode (n = 0) 3. From a
block about to execute, when `exec()` answers a state with n cycles, then after that many ticks the block is
about to execute again, in that state but for the cycles spent and the PPU, which has run once a tick. Rests on
the spec's decisions D18, D19, D30. -/
def Obligations.InstructionSpansThreeTicksPerCycle : Prop :=
  ∀ s t : State, s.fault = none → s.phase = 0 → s.remainingCycles = 0 → execNext s = .next t →
    ticks (3 * max 1 t.remainingCycles) s =
      .next { t with ppu := s.ppu.runs (3 * max 1 t.remainingCycles), remainingCycles := 0 }

/-- R7, R574: what an instruction does does not depend on the PPU. -/
def Obligations.InstructionsIgnoreThePpu : Prop :=
  ∀ (i : Instr) (s t : State) (p : Ppu), exec i s = .next t →
    exec i { s with ppu := p } = .next { t with ppu := p }

/-- R45, R501: no step and no host action clears a diagnostic mark (the sticky marks are the spec's decision
D17; which actions the host has is this model's choice, notes/assumptions/20.md). -/
def Obligations.DiagnosticsAreSticky : Prop :=
  ∀ (s t : State) (h : HostAction), step s = .next t ∨ hostAct h s = .next t → Diag.le s.diag t.diag

/-! ## The PPU -/

/-- R402: one call of `run()`, in the ranges that the counters keep. -/
def Obligations.PpuRunCounts : Prop :=
  ∀ p : Ppu, p.InRange →
    p.run.InRange ∧ p.run.palette = p.palette ∧ p.run.patternRam = p.patternRam ∧
    (p.cycle < 340 → p.run = { p with cycle := p.cycle + 1 }) ∧
    (p.cycle = 340 → p.scanline < 260 → p.run = { p with cycle := 0, scanline := p.scanline + 1 }) ∧
    (p.cycle = 340 → p.scanline = 260 →
      p.run = { p with cycle := 0, scanline := -1, frameComplete := true })

/-- R403: the counters after n calls of `run()` from reset; `frame_complete` is first set at call
341 * 262 and stays set. -/
def Obligations.PpuCountersAfterRuns : Prop :=
  ∀ n : Nat,
    let p := State.reset.ppu.runs n
    p.cycle = n % 341 ∧ p.scanline = (n / 341 % 262 : Nat) - 1 ∧
    (p.frameComplete = true ↔ 341 * 262 ≤ n)

/-- R412 to R415: the query gives the 128 by 128 grid and changes nothing: each pixel of each tile has the
colour of palette entry `p * 4 + (low bit + high bit)`, bits MSB first. The stride and the tile order are
the spec's decisions D25, D26, D39. -/
def Obligations.PatternQueryGivesEveryPixel : Prop :=
  ∀ (i : Fin 2) (p : Fin 8) (s : State), 0x2000 ≤ s.params.chrSize →
    ∃ pixels, getPatternTables i p s = .ok pixels s ∧ pixels.length = 128 * 128 ∧
      ∀ ty tx row col, ty < 16 → tx < 16 → row < 8 → col < 8 →
        let base := i.val * 0x1000 + ty * 256 + tx * 16
        let bit := fun (k : Nat) => if (s.chr.read k).getLsbD (7 - col) then 1 else 0
        let entry := s.ppu.palette.get (Fin.ofNat 32 (p.val * 4 + (bit (base + row) + bit (base + row + 8))))
        ({ x := tx * 8 + col, y := ty * 8 + row,
           color := Config.colorTable (Fin.ofNat 64 entry.toNat) } : Pixel) ∈ pixels

/-! ## Invariants -/

/-- The invariant holds at reset. -/
def Obligations.InvariantHoldsAtReset : Prop := State.reset.Inv

/-- R36 to R40, R43, R402: every step keeps the invariant: canonical memories inside their buffers, counters
in range, no fault. -/
def Obligations.StepKeepsInvariant : Prop :=
  ∀ s t : State, s.Inv → step s = .next t → t.Inv

/-- R524: every host action keeps the invariant. Which actions the host has is this model's choice
(notes/assumptions/20.md). -/
def Obligations.HostActionsKeepInvariant : Prop :=
  ∀ (h : HostAction) (s t : State), s.Inv → hostAct h s = .next t → t.Inv

/-- R94, R504, R506: with consistent cartridge parameters no run of ticks ever stops, from any state without
a fault. -/
def Obligations.ConsistentBlockNeverStops : Prop :=
  ∀ (n : Nat) (s : State), Consistent s.params → s.fault = none →
    ∃ t, ticks n s = .next t ∧ t.fault = none ∧ t.params = s.params
end

