-- ==== Sys2Proof/Laws/Memory.lean ====
section
/-! SUPPORT. The laws of a byte memory: read after write, and that a write keeps the canonical form and
the bound of the buffer. -/

namespace Sys2Proof.Machine.Memory

/-- A write leaves every other index alone, in any list of cells. -/
theorem read_write_other (m : Memory) {i j : Nat} (v : Byte) (h : j ≠ i) :
    (m.write i v).read j = m.read j := by
  induction m with
  | nil => by_cases hv : v = blank <;> simp [write, read, hv, Ne.symm h]
  | cons c m ih =>
    obtain ⟨k, b⟩ := c
    rcases lt_trichotomy i k with hlt | rfl | hgt
    · by_cases hv : v = blank <;> simp [write, read, hv, hlt, Ne.symm h]
    · by_cases hv : v = blank <;> simp [write, read, hv, Ne.symm h]
    · have h1 : ¬ i < k := by omega
      have h2 : ¬ i = k := by omega
      simp [write, read, h1, h2, ih]

/-- In a canonical memory an index below the first possible cell is not listed. -/
theorem read_of_wfFrom_lt {m : Memory} {lo i : Nat} (h : wfFrom lo m = true) (hi : i < lo) :
    m.read i = blank := by
  induction m generalizing lo with
  | nil => rfl
  | cons c m ih =>
    obtain ⟨k, b⟩ := c
    simp only [wfFrom, Bool.and_eq_true, decide_eq_true_eq] at h
    have hk : ¬ k = i := by omega
    simp only [read, hk, if_false]
    exact ih h.2 (by omega)

/-- A write is read back, in a canonical memory. -/
theorem read_write_same_from {m : Memory} {lo i : Nat} (v : Byte) (h : wfFrom lo m = true) :
    (m.write i v).read i = v := by
  induction m generalizing lo with
  | nil => by_cases hv : v = blank <;> simp [write, read, hv]
  | cons c m ih =>
    obtain ⟨k, b⟩ := c
    simp only [wfFrom, Bool.and_eq_true, decide_eq_true_eq] at h
    rcases lt_trichotomy i k with hlt | rfl | hgt
    · by_cases hv : v = blank
      · have hk : ¬ k = i := by omega
        simp only [write, read, hv, hlt, hk, if_true, if_false]
        exact read_of_wfFrom_lt h.2 (by omega)
      · simp [write, read, hv, hlt]
    · by_cases hv : v = blank
      · simp only [write, hv, lt_irrefl, if_true, if_false]
        exact read_of_wfFrom_lt h.2 (by omega)
      · simp [write, read, hv]
    · have h1 : ¬ i < k := by omega
      have h2 : ¬ i = k := by omega
      have h3 : ¬ k = i := by omega
      simp only [write, read, h1, h2, h3, if_false]
      exact ih h.2

/-- A write is read back, in a canonical memory. -/
theorem read_write_same {m : Memory} (i : Nat) (v : Byte) (h : m.wf = true) : (m.write i v).read i = v :=
  read_write_same_from v h

theorem wfFrom_mono {m : Memory} {lo lo' : Nat} (h : wfFrom lo m = true) (hl : lo' ≤ lo) :
    wfFrom lo' m = true := by
  cases m with
  | nil => rfl
  | cons c m =>
    obtain ⟨k, b⟩ := c
    simp only [wfFrom, Bool.and_eq_true, decide_eq_true_eq] at h ⊢
    exact ⟨⟨by omega, h.1.2⟩, h.2⟩

theorem wfFrom_write {m : Memory} {lo i : Nat} (v : Byte) (h : wfFrom lo m = true) (hi : lo ≤ i) :
    wfFrom lo (m.write i v) = true := by
  induction m generalizing lo with
  | nil => by_cases hv : v = blank <;> simp [write, wfFrom, hv, hi]
  | cons c m ih =>
    obtain ⟨k, b⟩ := c
    have h' := h
    simp only [wfFrom, Bool.and_eq_true, decide_eq_true_eq, bne_iff_ne] at h'
    rcases lt_trichotomy i k with hlt | rfl | hgt
    · by_cases hv : v = blank
      · simpa [write, hv, hlt] using h
      · simp [write, wfFrom, hv, hlt, hi, h'.1.2, h'.2, Nat.succ_le_of_lt hlt]
    · by_cases hv : v = blank
      · simpa [write, hv] using wfFrom_mono h'.2 (by omega)
      · simp [write, wfFrom, hv, hi, h'.2]
    · have h1 : ¬ i < k := by omega
      have h2 : ¬ i = k := by omega
      simp [write, wfFrom, h1, h2, h'.1.1, h'.1.2, ih h'.2 (by omega)]

/-- A write keeps the canonical form. -/
theorem wf_write {m : Memory} (i : Nat) (v : Byte) (h : m.wf = true) : (m.write i v).wf = true :=
  wfFrom_write v h (Nat.zero_le i)

/-- A write inside the buffer keeps every cell inside it. -/
theorem within_write {m : Memory} {size i : Nat} (v : Byte) (h : m.within size = true) (hi : i < size) :
    (m.write i v).within size = true := by
  induction m with
  | nil => by_cases hv : v = blank <;> simp [write, within, hv, hi]
  | cons c m ih =>
    obtain ⟨k, b⟩ := c
    simp only [within, List.all_cons, Bool.and_eq_true, decide_eq_true_eq] at h ih ⊢
    rcases lt_trichotomy i k with hlt | rfl | hgt
    · by_cases hv : v = blank <;> simp [write, hv, hlt, hi, h.1, h.2]
    · by_cases hv : v = blank <;> simp [write, hv, h.1, h.2]
    · have h1 : ¬ i < k := by omega
      have h2 : ¬ i = k := by omega
      simp only [write, h1, h2, if_false, List.all_cons, Bool.and_eq_true, decide_eq_true_eq]
      exact ⟨h.1, ih h.2⟩

end Sys2Proof.Machine.Memory
end

