-- ==== Sys2Proof/Laws/State.lean ====
section
/-! SUPPORT. One lemma per field per named update of State, each true by rfl, so that no proof unfolds a
record update. -/

namespace Sys2Proof.Machine.State

variable (s : State)

@[simp] theorem setA_a (v : Byte) : (s.setA v).a = v := rfl
@[simp] theorem setA_x (v : Byte) : (s.setA v).x = s.x := rfl
@[simp] theorem setA_y (v : Byte) : (s.setA v).y = s.y := rfl
@[simp] theorem setA_sp (v : Byte) : (s.setA v).sp = s.sp := rfl
@[simp] theorem setA_pc (v : Byte) : (s.setA v).pc = s.pc := rfl
@[simp] theorem setA_flags (v : Byte) : (s.setA v).flags = s.flags := rfl
@[simp] theorem setA_ram (v : Byte) : (s.setA v).ram = s.ram := rfl
@[simp] theorem setA_prg (v : Byte) : (s.setA v).prg = s.prg := rfl
@[simp] theorem setA_chr (v : Byte) : (s.setA v).chr = s.chr := rfl
@[simp] theorem setA_ppu (v : Byte) : (s.setA v).ppu = s.ppu := rfl
@[simp] theorem setA_remainingCycles (v : Byte) : (s.setA v).remainingCycles = s.remainingCycles := rfl
@[simp] theorem setA_phase (v : Byte) : (s.setA v).phase = s.phase := rfl
@[simp] theorem setA_diag (v : Byte) : (s.setA v).diag = s.diag := rfl
@[simp] theorem setA_fault (v : Byte) : (s.setA v).fault = s.fault := rfl
@[simp] theorem setA_params (v : Byte) : (s.setA v).params = s.params := rfl

@[simp] theorem setX_a (v : Byte) : (s.setX v).a = s.a := rfl
@[simp] theorem setX_x (v : Byte) : (s.setX v).x = v := rfl
@[simp] theorem setX_y (v : Byte) : (s.setX v).y = s.y := rfl
@[simp] theorem setX_sp (v : Byte) : (s.setX v).sp = s.sp := rfl
@[simp] theorem setX_pc (v : Byte) : (s.setX v).pc = s.pc := rfl
@[simp] theorem setX_flags (v : Byte) : (s.setX v).flags = s.flags := rfl
@[simp] theorem setX_ram (v : Byte) : (s.setX v).ram = s.ram := rfl
@[simp] theorem setX_prg (v : Byte) : (s.setX v).prg = s.prg := rfl
@[simp] theorem setX_chr (v : Byte) : (s.setX v).chr = s.chr := rfl
@[simp] theorem setX_ppu (v : Byte) : (s.setX v).ppu = s.ppu := rfl
@[simp] theorem setX_remainingCycles (v : Byte) : (s.setX v).remainingCycles = s.remainingCycles := rfl
@[simp] theorem setX_phase (v : Byte) : (s.setX v).phase = s.phase := rfl
@[simp] theorem setX_diag (v : Byte) : (s.setX v).diag = s.diag := rfl
@[simp] theorem setX_fault (v : Byte) : (s.setX v).fault = s.fault := rfl
@[simp] theorem setX_params (v : Byte) : (s.setX v).params = s.params := rfl

@[simp] theorem setY_a (v : Byte) : (s.setY v).a = s.a := rfl
@[simp] theorem setY_x (v : Byte) : (s.setY v).x = s.x := rfl
@[simp] theorem setY_y (v : Byte) : (s.setY v).y = v := rfl
@[simp] theorem setY_sp (v : Byte) : (s.setY v).sp = s.sp := rfl
@[simp] theorem setY_pc (v : Byte) : (s.setY v).pc = s.pc := rfl
@[simp] theorem setY_flags (v : Byte) : (s.setY v).flags = s.flags := rfl
@[simp] theorem setY_ram (v : Byte) : (s.setY v).ram = s.ram := rfl
@[simp] theorem setY_prg (v : Byte) : (s.setY v).prg = s.prg := rfl
@[simp] theorem setY_chr (v : Byte) : (s.setY v).chr = s.chr := rfl
@[simp] theorem setY_ppu (v : Byte) : (s.setY v).ppu = s.ppu := rfl
@[simp] theorem setY_remainingCycles (v : Byte) : (s.setY v).remainingCycles = s.remainingCycles := rfl
@[simp] theorem setY_phase (v : Byte) : (s.setY v).phase = s.phase := rfl
@[simp] theorem setY_diag (v : Byte) : (s.setY v).diag = s.diag := rfl
@[simp] theorem setY_fault (v : Byte) : (s.setY v).fault = s.fault := rfl
@[simp] theorem setY_params (v : Byte) : (s.setY v).params = s.params := rfl

@[simp] theorem setSp_a (v : Byte) : (s.setSp v).a = s.a := rfl
@[simp] theorem setSp_x (v : Byte) : (s.setSp v).x = s.x := rfl
@[simp] theorem setSp_y (v : Byte) : (s.setSp v).y = s.y := rfl
@[simp] theorem setSp_sp (v : Byte) : (s.setSp v).sp = v := rfl
@[simp] theorem setSp_pc (v : Byte) : (s.setSp v).pc = s.pc := rfl
@[simp] theorem setSp_flags (v : Byte) : (s.setSp v).flags = s.flags := rfl
@[simp] theorem setSp_ram (v : Byte) : (s.setSp v).ram = s.ram := rfl
@[simp] theorem setSp_prg (v : Byte) : (s.setSp v).prg = s.prg := rfl
@[simp] theorem setSp_chr (v : Byte) : (s.setSp v).chr = s.chr := rfl
@[simp] theorem setSp_ppu (v : Byte) : (s.setSp v).ppu = s.ppu := rfl
@[simp] theorem setSp_remainingCycles (v : Byte) : (s.setSp v).remainingCycles = s.remainingCycles := rfl
@[simp] theorem setSp_phase (v : Byte) : (s.setSp v).phase = s.phase := rfl
@[simp] theorem setSp_diag (v : Byte) : (s.setSp v).diag = s.diag := rfl
@[simp] theorem setSp_fault (v : Byte) : (s.setSp v).fault = s.fault := rfl
@[simp] theorem setSp_params (v : Byte) : (s.setSp v).params = s.params := rfl

@[simp] theorem setPc_a (v : Addr) : (s.setPc v).a = s.a := rfl
@[simp] theorem setPc_x (v : Addr) : (s.setPc v).x = s.x := rfl
@[simp] theorem setPc_y (v : Addr) : (s.setPc v).y = s.y := rfl
@[simp] theorem setPc_sp (v : Addr) : (s.setPc v).sp = s.sp := rfl
@[simp] theorem setPc_pc (v : Addr) : (s.setPc v).pc = v := rfl
@[simp] theorem setPc_flags (v : Addr) : (s.setPc v).flags = s.flags := rfl
@[simp] theorem setPc_ram (v : Addr) : (s.setPc v).ram = s.ram := rfl
@[simp] theorem setPc_prg (v : Addr) : (s.setPc v).prg = s.prg := rfl
@[simp] theorem setPc_chr (v : Addr) : (s.setPc v).chr = s.chr := rfl
@[simp] theorem setPc_ppu (v : Addr) : (s.setPc v).ppu = s.ppu := rfl
@[simp] theorem setPc_remainingCycles (v : Addr) : (s.setPc v).remainingCycles = s.remainingCycles := rfl
@[simp] theorem setPc_phase (v : Addr) : (s.setPc v).phase = s.phase := rfl
@[simp] theorem setPc_diag (v : Addr) : (s.setPc v).diag = s.diag := rfl
@[simp] theorem setPc_fault (v : Addr) : (s.setPc v).fault = s.fault := rfl
@[simp] theorem setPc_params (v : Addr) : (s.setPc v).params = s.params := rfl

@[simp] theorem setFlags_a (f : Flags) : (s.setFlags f).a = s.a := rfl
@[simp] theorem setFlags_x (f : Flags) : (s.setFlags f).x = s.x := rfl
@[simp] theorem setFlags_y (f : Flags) : (s.setFlags f).y = s.y := rfl
@[simp] theorem setFlags_sp (f : Flags) : (s.setFlags f).sp = s.sp := rfl
@[simp] theorem setFlags_pc (f : Flags) : (s.setFlags f).pc = s.pc := rfl
@[simp] theorem setFlags_flags (f : Flags) : (s.setFlags f).flags = f := rfl
@[simp] theorem setFlags_ram (f : Flags) : (s.setFlags f).ram = s.ram := rfl
@[simp] theorem setFlags_prg (f : Flags) : (s.setFlags f).prg = s.prg := rfl
@[simp] theorem setFlags_chr (f : Flags) : (s.setFlags f).chr = s.chr := rfl
@[simp] theorem setFlags_ppu (f : Flags) : (s.setFlags f).ppu = s.ppu := rfl
@[simp] theorem setFlags_remainingCycles (f : Flags) : (s.setFlags f).remainingCycles = s.remainingCycles := rfl
@[simp] theorem setFlags_phase (f : Flags) : (s.setFlags f).phase = s.phase := rfl
@[simp] theorem setFlags_diag (f : Flags) : (s.setFlags f).diag = s.diag := rfl
@[simp] theorem setFlags_fault (f : Flags) : (s.setFlags f).fault = s.fault := rfl
@[simp] theorem setFlags_params (f : Flags) : (s.setFlags f).params = s.params := rfl

@[simp] theorem writeRam_a (i : Nat) (v : Byte) : (s.writeRam i v).a = s.a := rfl
@[simp] theorem writeRam_x (i : Nat) (v : Byte) : (s.writeRam i v).x = s.x := rfl
@[simp] theorem writeRam_y (i : Nat) (v : Byte) : (s.writeRam i v).y = s.y := rfl
@[simp] theorem writeRam_sp (i : Nat) (v : Byte) : (s.writeRam i v).sp = s.sp := rfl
@[simp] theorem writeRam_pc (i : Nat) (v : Byte) : (s.writeRam i v).pc = s.pc := rfl
@[simp] theorem writeRam_flags (i : Nat) (v : Byte) : (s.writeRam i v).flags = s.flags := rfl
@[simp] theorem writeRam_ram (i : Nat) (v : Byte) : (s.writeRam i v).ram = s.ram.write i v := rfl
@[simp] theorem writeRam_prg (i : Nat) (v : Byte) : (s.writeRam i v).prg = s.prg := rfl
@[simp] theorem writeRam_chr (i : Nat) (v : Byte) : (s.writeRam i v).chr = s.chr := rfl
@[simp] theorem writeRam_ppu (i : Nat) (v : Byte) : (s.writeRam i v).ppu = s.ppu := rfl
@[simp] theorem writeRam_remainingCycles (i : Nat) (v : Byte) : (s.writeRam i v).remainingCycles = s.remainingCycles := rfl
@[simp] theorem writeRam_phase (i : Nat) (v : Byte) : (s.writeRam i v).phase = s.phase := rfl
@[simp] theorem writeRam_diag (i : Nat) (v : Byte) : (s.writeRam i v).diag = s.diag := rfl
@[simp] theorem writeRam_fault (i : Nat) (v : Byte) : (s.writeRam i v).fault = s.fault := rfl
@[simp] theorem writeRam_params (i : Nat) (v : Byte) : (s.writeRam i v).params = s.params := rfl

@[simp] theorem writePrg_a (i : Nat) (v : Byte) : (s.writePrg i v).a = s.a := rfl
@[simp] theorem writePrg_x (i : Nat) (v : Byte) : (s.writePrg i v).x = s.x := rfl
@[simp] theorem writePrg_y (i : Nat) (v : Byte) : (s.writePrg i v).y = s.y := rfl
@[simp] theorem writePrg_sp (i : Nat) (v : Byte) : (s.writePrg i v).sp = s.sp := rfl
@[simp] theorem writePrg_pc (i : Nat) (v : Byte) : (s.writePrg i v).pc = s.pc := rfl
@[simp] theorem writePrg_flags (i : Nat) (v : Byte) : (s.writePrg i v).flags = s.flags := rfl
@[simp] theorem writePrg_ram (i : Nat) (v : Byte) : (s.writePrg i v).ram = s.ram := rfl
@[simp] theorem writePrg_prg (i : Nat) (v : Byte) : (s.writePrg i v).prg = s.prg.write i v := rfl
@[simp] theorem writePrg_chr (i : Nat) (v : Byte) : (s.writePrg i v).chr = s.chr := rfl
@[simp] theorem writePrg_ppu (i : Nat) (v : Byte) : (s.writePrg i v).ppu = s.ppu := rfl
@[simp] theorem writePrg_remainingCycles (i : Nat) (v : Byte) : (s.writePrg i v).remainingCycles = s.remainingCycles := rfl
@[simp] theorem writePrg_phase (i : Nat) (v : Byte) : (s.writePrg i v).phase = s.phase := rfl
@[simp] theorem writePrg_diag (i : Nat) (v : Byte) : (s.writePrg i v).diag = s.diag := rfl
@[simp] theorem writePrg_fault (i : Nat) (v : Byte) : (s.writePrg i v).fault = s.fault := rfl
@[simp] theorem writePrg_params (i : Nat) (v : Byte) : (s.writePrg i v).params = s.params := rfl

@[simp] theorem writeChr_a (i : Nat) (v : Byte) : (s.writeChr i v).a = s.a := rfl
@[simp] theorem writeChr_x (i : Nat) (v : Byte) : (s.writeChr i v).x = s.x := rfl
@[simp] theorem writeChr_y (i : Nat) (v : Byte) : (s.writeChr i v).y = s.y := rfl
@[simp] theorem writeChr_sp (i : Nat) (v : Byte) : (s.writeChr i v).sp = s.sp := rfl
@[simp] theorem writeChr_pc (i : Nat) (v : Byte) : (s.writeChr i v).pc = s.pc := rfl
@[simp] theorem writeChr_flags (i : Nat) (v : Byte) : (s.writeChr i v).flags = s.flags := rfl
@[simp] theorem writeChr_ram (i : Nat) (v : Byte) : (s.writeChr i v).ram = s.ram := rfl
@[simp] theorem writeChr_prg (i : Nat) (v : Byte) : (s.writeChr i v).prg = s.prg := rfl
@[simp] theorem writeChr_chr (i : Nat) (v : Byte) : (s.writeChr i v).chr = s.chr.write i v := rfl
@[simp] theorem writeChr_ppu (i : Nat) (v : Byte) : (s.writeChr i v).ppu = s.ppu := rfl
@[simp] theorem writeChr_remainingCycles (i : Nat) (v : Byte) : (s.writeChr i v).remainingCycles = s.remainingCycles := rfl
@[simp] theorem writeChr_phase (i : Nat) (v : Byte) : (s.writeChr i v).phase = s.phase := rfl
@[simp] theorem writeChr_diag (i : Nat) (v : Byte) : (s.writeChr i v).diag = s.diag := rfl
@[simp] theorem writeChr_fault (i : Nat) (v : Byte) : (s.writeChr i v).fault = s.fault := rfl
@[simp] theorem writeChr_params (i : Nat) (v : Byte) : (s.writeChr i v).params = s.params := rfl

@[simp] theorem setRemaining_a (n : Nat) : (s.setRemaining n).a = s.a := rfl
@[simp] theorem setRemaining_x (n : Nat) : (s.setRemaining n).x = s.x := rfl
@[simp] theorem setRemaining_y (n : Nat) : (s.setRemaining n).y = s.y := rfl
@[simp] theorem setRemaining_sp (n : Nat) : (s.setRemaining n).sp = s.sp := rfl
@[simp] theorem setRemaining_pc (n : Nat) : (s.setRemaining n).pc = s.pc := rfl
@[simp] theorem setRemaining_flags (n : Nat) : (s.setRemaining n).flags = s.flags := rfl
@[simp] theorem setRemaining_ram (n : Nat) : (s.setRemaining n).ram = s.ram := rfl
@[simp] theorem setRemaining_prg (n : Nat) : (s.setRemaining n).prg = s.prg := rfl
@[simp] theorem setRemaining_chr (n : Nat) : (s.setRemaining n).chr = s.chr := rfl
@[simp] theorem setRemaining_ppu (n : Nat) : (s.setRemaining n).ppu = s.ppu := rfl
@[simp] theorem setRemaining_remainingCycles (n : Nat) : (s.setRemaining n).remainingCycles = n := rfl
@[simp] theorem setRemaining_phase (n : Nat) : (s.setRemaining n).phase = s.phase := rfl
@[simp] theorem setRemaining_diag (n : Nat) : (s.setRemaining n).diag = s.diag := rfl
@[simp] theorem setRemaining_fault (n : Nat) : (s.setRemaining n).fault = s.fault := rfl
@[simp] theorem setRemaining_params (n : Nat) : (s.setRemaining n).params = s.params := rfl

@[simp] theorem setPhase_a (p : Fin 3) : (s.setPhase p).a = s.a := rfl
@[simp] theorem setPhase_x (p : Fin 3) : (s.setPhase p).x = s.x := rfl
@[simp] theorem setPhase_y (p : Fin 3) : (s.setPhase p).y = s.y := rfl
@[simp] theorem setPhase_sp (p : Fin 3) : (s.setPhase p).sp = s.sp := rfl
@[simp] theorem setPhase_pc (p : Fin 3) : (s.setPhase p).pc = s.pc := rfl
@[simp] theorem setPhase_flags (p : Fin 3) : (s.setPhase p).flags = s.flags := rfl
@[simp] theorem setPhase_ram (p : Fin 3) : (s.setPhase p).ram = s.ram := rfl
@[simp] theorem setPhase_prg (p : Fin 3) : (s.setPhase p).prg = s.prg := rfl
@[simp] theorem setPhase_chr (p : Fin 3) : (s.setPhase p).chr = s.chr := rfl
@[simp] theorem setPhase_ppu (p : Fin 3) : (s.setPhase p).ppu = s.ppu := rfl
@[simp] theorem setPhase_remainingCycles (p : Fin 3) : (s.setPhase p).remainingCycles = s.remainingCycles := rfl
@[simp] theorem setPhase_phase (p : Fin 3) : (s.setPhase p).phase = p := rfl
@[simp] theorem setPhase_diag (p : Fin 3) : (s.setPhase p).diag = s.diag := rfl
@[simp] theorem setPhase_fault (p : Fin 3) : (s.setPhase p).fault = s.fault := rfl
@[simp] theorem setPhase_params (p : Fin 3) : (s.setPhase p).params = s.params := rfl

@[simp] theorem setFault_a (e : HardFault) : (s.setFault e).a = s.a := rfl
@[simp] theorem setFault_x (e : HardFault) : (s.setFault e).x = s.x := rfl
@[simp] theorem setFault_y (e : HardFault) : (s.setFault e).y = s.y := rfl
@[simp] theorem setFault_sp (e : HardFault) : (s.setFault e).sp = s.sp := rfl
@[simp] theorem setFault_pc (e : HardFault) : (s.setFault e).pc = s.pc := rfl
@[simp] theorem setFault_flags (e : HardFault) : (s.setFault e).flags = s.flags := rfl
@[simp] theorem setFault_ram (e : HardFault) : (s.setFault e).ram = s.ram := rfl
@[simp] theorem setFault_prg (e : HardFault) : (s.setFault e).prg = s.prg := rfl
@[simp] theorem setFault_chr (e : HardFault) : (s.setFault e).chr = s.chr := rfl
@[simp] theorem setFault_ppu (e : HardFault) : (s.setFault e).ppu = s.ppu := rfl
@[simp] theorem setFault_remainingCycles (e : HardFault) : (s.setFault e).remainingCycles = s.remainingCycles := rfl
@[simp] theorem setFault_phase (e : HardFault) : (s.setFault e).phase = s.phase := rfl
@[simp] theorem setFault_diag (e : HardFault) : (s.setFault e).diag = s.diag := rfl
@[simp] theorem setFault_fault (e : HardFault) : (s.setFault e).fault = some e := rfl
@[simp] theorem setFault_params (e : HardFault) : (s.setFault e).params = s.params := rfl

@[simp] theorem note_a (k : DiagKind) : (s.note k).a = s.a := rfl
@[simp] theorem note_x (k : DiagKind) : (s.note k).x = s.x := rfl
@[simp] theorem note_y (k : DiagKind) : (s.note k).y = s.y := rfl
@[simp] theorem note_sp (k : DiagKind) : (s.note k).sp = s.sp := rfl
@[simp] theorem note_pc (k : DiagKind) : (s.note k).pc = s.pc := rfl
@[simp] theorem note_flags (k : DiagKind) : (s.note k).flags = s.flags := rfl
@[simp] theorem note_ram (k : DiagKind) : (s.note k).ram = s.ram := rfl
@[simp] theorem note_prg (k : DiagKind) : (s.note k).prg = s.prg := rfl
@[simp] theorem note_chr (k : DiagKind) : (s.note k).chr = s.chr := rfl
@[simp] theorem note_ppu (k : DiagKind) : (s.note k).ppu = s.ppu := rfl
@[simp] theorem note_remainingCycles (k : DiagKind) : (s.note k).remainingCycles = s.remainingCycles := rfl
@[simp] theorem note_phase (k : DiagKind) : (s.note k).phase = s.phase := rfl
@[simp] theorem note_diag (k : DiagKind) : (s.note k).diag = s.diag.mark k := rfl
@[simp] theorem note_fault (k : DiagKind) : (s.note k).fault = s.fault := rfl
@[simp] theorem note_params (k : DiagKind) : (s.note k).params = s.params := rfl

end Sys2Proof.Machine.State

namespace Sys2Proof.Machine

variable (s : State)

@[simp] theorem ppuRun_a : (ppuRun s).a = s.a := rfl
@[simp] theorem ppuRun_x : (ppuRun s).x = s.x := rfl
@[simp] theorem ppuRun_y : (ppuRun s).y = s.y := rfl
@[simp] theorem ppuRun_sp : (ppuRun s).sp = s.sp := rfl
@[simp] theorem ppuRun_pc : (ppuRun s).pc = s.pc := rfl
@[simp] theorem ppuRun_flags : (ppuRun s).flags = s.flags := rfl
@[simp] theorem ppuRun_ram : (ppuRun s).ram = s.ram := rfl
@[simp] theorem ppuRun_prg : (ppuRun s).prg = s.prg := rfl
@[simp] theorem ppuRun_chr : (ppuRun s).chr = s.chr := rfl
@[simp] theorem ppuRun_ppu : (ppuRun s).ppu = s.ppu.run := rfl
@[simp] theorem ppuRun_remainingCycles : (ppuRun s).remainingCycles = s.remainingCycles := rfl
@[simp] theorem ppuRun_phase : (ppuRun s).phase = s.phase := rfl
@[simp] theorem ppuRun_diag : (ppuRun s).diag = s.diag := rfl
@[simp] theorem ppuRun_fault : (ppuRun s).fault = s.fault := rfl
@[simp] theorem ppuRun_params : (ppuRun s).params = s.params := rfl
@[simp] theorem nextPhase_a : (nextPhase s).a = s.a := rfl
@[simp] theorem nextPhase_x : (nextPhase s).x = s.x := rfl
@[simp] theorem nextPhase_y : (nextPhase s).y = s.y := rfl
@[simp] theorem nextPhase_sp : (nextPhase s).sp = s.sp := rfl
@[simp] theorem nextPhase_pc : (nextPhase s).pc = s.pc := rfl
@[simp] theorem nextPhase_flags : (nextPhase s).flags = s.flags := rfl
@[simp] theorem nextPhase_ram : (nextPhase s).ram = s.ram := rfl
@[simp] theorem nextPhase_prg : (nextPhase s).prg = s.prg := rfl
@[simp] theorem nextPhase_chr : (nextPhase s).chr = s.chr := rfl
@[simp] theorem nextPhase_ppu : (nextPhase s).ppu = s.ppu := rfl
@[simp] theorem nextPhase_remainingCycles : (nextPhase s).remainingCycles = s.remainingCycles := rfl
@[simp] theorem nextPhase_phase : (nextPhase s).phase = s.phase + 1 := rfl
@[simp] theorem nextPhase_diag : (nextPhase s).diag = s.diag := rfl
@[simp] theorem nextPhase_fault : (nextPhase s).fault = s.fault := rfl
@[simp] theorem nextPhase_params : (nextPhase s).params = s.params := rfl
@[simp] theorem spendCycle_a : (spendCycle s).a = s.a := rfl
@[simp] theorem spendCycle_x : (spendCycle s).x = s.x := rfl
@[simp] theorem spendCycle_y : (spendCycle s).y = s.y := rfl
@[simp] theorem spendCycle_sp : (spendCycle s).sp = s.sp := rfl
@[simp] theorem spendCycle_pc : (spendCycle s).pc = s.pc := rfl
@[simp] theorem spendCycle_flags : (spendCycle s).flags = s.flags := rfl
@[simp] theorem spendCycle_ram : (spendCycle s).ram = s.ram := rfl
@[simp] theorem spendCycle_prg : (spendCycle s).prg = s.prg := rfl
@[simp] theorem spendCycle_chr : (spendCycle s).chr = s.chr := rfl
@[simp] theorem spendCycle_ppu : (spendCycle s).ppu = s.ppu := rfl
@[simp] theorem spendCycle_remainingCycles : (spendCycle s).remainingCycles = s.remainingCycles - 1 := rfl
@[simp] theorem spendCycle_phase : (spendCycle s).phase = s.phase := rfl
@[simp] theorem spendCycle_diag : (spendCycle s).diag = s.diag := rfl
@[simp] theorem spendCycle_fault : (spendCycle s).fault = s.fault := rfl
@[simp] theorem spendCycle_params : (spendCycle s).params = s.params := rfl

end Sys2Proof.Machine
end

