-- ==== Sys2Proof/Laws/Bus.lean ====
section
/-! SUPPORT. The bus arbiter agrees with the address map of Machine/View.lean: what one read or write of the
bus can do, said once, and the frames of `noteRead` and `poke`. -/

namespace Sys2Proof.Machine

open Config (Params)

variable {s : State} {a b : Addr} {v : Byte} {p : Params}

/-! ## Masks as remainders -/

theorem and_7FFF (a : Addr) : (a &&& 0x7FFF).toNat = a.toNat % 0x8000 := by
  rw [BitVec.toNat_and]; exact Nat.and_two_pow_sub_one_eq_mod a.toNat 15

theorem and_3FFF (a : Addr) : (a &&& 0x3FFF).toNat = a.toNat % 0x4000 := by
  rw [BitVec.toNat_and]; exact Nat.and_two_pow_sub_one_eq_mod a.toNat 14

theorem and_07FF (a : Addr) : (a &&& 0x07FF).toNat = a.toNat % 2048 := by
  rw [BitVec.toNat_and]; exact Nat.and_two_pow_sub_one_eq_mod a.toNat 11

theorem and_7 (a : Addr) : (a &&& 0x7).toNat = a.toNat % 8 := by
  rw [BitVec.toNat_and]; exact Nat.and_two_pow_sub_one_eq_mod a.toNat 3

/-! ## The mapper's offset -/

/-- The PRG offset of an address the cartridge claims (R61). -/
theorem cpuMapRead_eq (p : Params) (a : Addr) : cpuMapRead p a =
    if 0x8000 ≤ a.toNat then
      some (if p.prgBanks.val > 1 then a.toNat % 0x8000 else a.toNat % 0x4000)
    else none := by
  simp only [cpuMapRead, and_7FFF, and_3FFF]

/-- With a PRG bank present the translated offset lies inside PRG memory (R94). -/
theorem prgOffset_lt (hp : 0 < p.prgBanks.val) :
    (if p.prgBanks.val > 1 then a.toNat % 0x8000 else a.toNat % 0x4000) < p.prgSize := by
  unfold Params.prgSize Config.prgBankSize
  split <;> omega

/-! ## One bus access -/

/-- A read of an accessible address gives the byte of the map and records at most a diagnostic. -/
theorem cpuBusRead_accessible (h : Accessible s.params a) :
    cpuBusRead a s = .ok (peek s a) (noteRead s a) := by
  unfold cpuBusRead cartridgeCpuRead peek noteRead place
  rw [cpuMapRead_eq]
  by_cases h8 : 0x8000 ≤ a.toNat
  · have hp : 0 < s.params.prgBanks.val := by rcases h with h | h <;> omega
    have hlt := prgOffset_lt (a := a) hp
    have n1 : ¬ a.toNat < 0x2000 := by omega
    have n2 : ¬ a.toNat < 0x4000 := by omega
    have n3 : ¬ a.toNat < 0x8000 := by omega
    simp only [h8, n1, n2, n3, hlt, if_true, if_false, Access.andThen]
  · have n3 : a.toNat < 0x8000 := by omega
    simp only [h8, if_false, Access.andThen, n3, if_true]
    by_cases h2 : a.toNat < 0x2000
    · simp only [h2, if_true, and_07FF]
    · by_cases h4 : a.toNat < 0x4000
      · have h4' : a.toNat ≤ 0x3FFF := by omega
        simp only [h2, h4, h4', if_true, if_false, ppuCpuRead, and_7]
        split <;> rfl
      · have h4' : ¬ a.toNat ≤ 0x3FFF := by omega
        simp only [h2, h4, h4', if_false]

/-- A write of an accessible address is the map's write. -/
theorem cpuBusWrite_accessible (h : Accessible s.params a) :
    cpuBusWrite a v s = .ok () (poke s a v) := by
  unfold cpuBusWrite cartridgeCpuWrite cpuMapWrite poke place
  rw [cpuMapRead_eq]
  by_cases h8 : 0x8000 ≤ a.toNat
  · have hp : 0 < s.params.prgBanks.val := by rcases h with h | h <;> omega
    have hlt := prgOffset_lt (a := a) hp
    have n1 : ¬ a.toNat < 0x2000 := by omega
    have n2 : ¬ a.toNat < 0x4000 := by omega
    have n3 : ¬ a.toNat < 0x8000 := by omega
    simp only [h8, n1, n2, n3, hlt, if_true, if_false, Access.andThen]
  · have n3 : a.toNat < 0x8000 := by omega
    simp only [h8, if_false, Access.andThen, n3, if_true]
    by_cases h2 : a.toNat < 0x2000
    · simp only [h2, if_true, and_07FF]; rfl
    · by_cases h4 : a.toNat < 0x4000
      · have h4' : a.toNat ≤ 0x3FFF := by omega
        simp only [h2, h4, h4', if_true, if_false, ppuCpuWrite]; rfl
      · have h4' : ¬ a.toNat ≤ 0x3FFF := by omega
        simp only [h2, h4, h4', if_false]; rfl

/-- An address that is not accessible is claimed at an offset of an empty PRG memory (R94). -/
theorem cpuMapRead_not_accessible (h : ¬ Accessible p a) :
    cpuMapRead p a = some (a.toNat % 0x4000) ∧ ¬ a.toNat % 0x4000 < p.prgSize := by
  have h8 : 0x8000 ≤ a.toNat := by by_contra hc; exact h (.inl (by omega))
  have hp : p.prgBanks.val = 0 := by by_contra hc; exact h (.inr (by omega))
  rw [cpuMapRead_eq]
  simp [h8, hp, Params.prgSize]

/-- A read of an address that is not accessible raises the hard fault. -/
theorem cpuBusRead_not_accessible (h : ¬ Accessible s.params a) :
    cpuBusRead a s = .raise (.prgIndexOutOfBounds a (a.toNat % 0x4000)) s := by
  obtain ⟨hm, hlt⟩ := cpuMapRead_not_accessible h
  simp only [cpuBusRead, cartridgeCpuRead, hm, hlt, if_false]; rfl

/-- A write of an address that is not accessible raises the hard fault. -/
theorem cpuBusWrite_not_accessible (h : ¬ Accessible s.params a) :
    cpuBusWrite a v s = .raise (.prgIndexOutOfBounds a (a.toNat % 0x4000)) s := by
  obtain ⟨hm, hlt⟩ := cpuMapRead_not_accessible h
  simp only [cpuBusWrite, cartridgeCpuWrite, cpuMapWrite, hm, hlt, if_false]; rfl

/-! ## Frames: `noteRead` writes DIAG alone, `poke` writes RAM, PRG or DIAG -/

/-- `noteRead` changes nothing but DIAG. -/
theorem noteRead_eq (s : State) (a : Addr) : noteRead s a = { s with diag := (noteRead s a).diag } := by
  unfold noteRead; split <;> (try split) <;> rfl

@[simp] theorem noteRead_a : (noteRead s a).a = s.a := by rw [noteRead_eq]
@[simp] theorem noteRead_x : (noteRead s a).x = s.x := by rw [noteRead_eq]
@[simp] theorem noteRead_y : (noteRead s a).y = s.y := by rw [noteRead_eq]
@[simp] theorem noteRead_sp : (noteRead s a).sp = s.sp := by rw [noteRead_eq]
@[simp] theorem noteRead_pc : (noteRead s a).pc = s.pc := by rw [noteRead_eq]
@[simp] theorem noteRead_flags : (noteRead s a).flags = s.flags := by rw [noteRead_eq]
@[simp] theorem noteRead_ram : (noteRead s a).ram = s.ram := by rw [noteRead_eq]
@[simp] theorem noteRead_prg : (noteRead s a).prg = s.prg := by rw [noteRead_eq]
@[simp] theorem noteRead_chr : (noteRead s a).chr = s.chr := by rw [noteRead_eq]
@[simp] theorem noteRead_ppu : (noteRead s a).ppu = s.ppu := by rw [noteRead_eq]
@[simp] theorem noteRead_remainingCycles : (noteRead s a).remainingCycles = s.remainingCycles := by
  rw [noteRead_eq]
@[simp] theorem noteRead_phase : (noteRead s a).phase = s.phase := by rw [noteRead_eq]
@[simp] theorem noteRead_fault : (noteRead s a).fault = s.fault := by rw [noteRead_eq]
@[simp] theorem noteRead_params : (noteRead s a).params = s.params := by rw [noteRead_eq]

/-- `poke` changes nothing but RAM, PRG and DIAG. -/
theorem poke_eq (s : State) (a : Addr) (v : Byte) :
    poke s a v = { s with ram := (poke s a v).ram, prg := (poke s a v).prg, diag := (poke s a v).diag } := by
  unfold poke; split <;> rfl

@[simp] theorem poke_a : (poke s a v).a = s.a := by rw [poke_eq]
@[simp] theorem poke_x : (poke s a v).x = s.x := by rw [poke_eq]
@[simp] theorem poke_y : (poke s a v).y = s.y := by rw [poke_eq]
@[simp] theorem poke_sp : (poke s a v).sp = s.sp := by rw [poke_eq]
@[simp] theorem poke_pc : (poke s a v).pc = s.pc := by rw [poke_eq]
@[simp] theorem poke_flags : (poke s a v).flags = s.flags := by rw [poke_eq]
@[simp] theorem poke_chr : (poke s a v).chr = s.chr := by rw [poke_eq]
@[simp] theorem poke_ppu : (poke s a v).ppu = s.ppu := by rw [poke_eq]
@[simp] theorem poke_remainingCycles : (poke s a v).remainingCycles = s.remainingCycles := by rw [poke_eq]
@[simp] theorem poke_phase : (poke s a v).phase = s.phase := by rw [poke_eq]
@[simp] theorem poke_fault : (poke s a v).fault = s.fault := by rw [poke_eq]
@[simp] theorem poke_params : (poke s a v).params = s.params := by rw [poke_eq]

/-- An address of PRG memory, which exists, is served by it. -/
theorem place_prg_memory (h : 0x8000 ≤ a.toNat) (hp : 0 < p.prgBanks.val) :
    place p a = .prg (if p.prgBanks.val > 1 then a.toNat % 0x8000 else a.toNat % 0x4000) := by
  have n1 : ¬ a.toNat < 0x2000 := by omega
  have n2 : ¬ a.toNat < 0x4000 := by omega
  have n3 : ¬ a.toNat < 0x8000 := by omega
  simp only [place, n1, n2, n3, if_false, prgOffset_lt hp, if_true]

/-- Reading PRG memory records nothing. -/
theorem noteRead_prg_memory (h : 0x8000 ≤ a.toNat) (hp : 0 < s.params.prgBanks.val) : noteRead s a = s := by
  unfold noteRead; rw [place_prg_memory h hp]

/-- What an address of PRG memory reads as. -/
theorem peek_prg_memory (h : 0x8000 ≤ a.toNat) (hp : 0 < s.params.prgBanks.val) :
    peek s a =
      s.prg.read (if s.params.prgBanks.val > 1 then a.toNat % 0x8000 else a.toNat % 0x4000) := by
  unfold peek; rw [place_prg_memory h hp]

/-- What an address reads as depends on RAM, PRG and the parameters alone. -/
theorem peek_congr {s t : State} (hr : t.ram = s.ram) (hg : t.prg = s.prg) (hp : t.params = s.params)
    (a : Addr) : peek t a = peek s a := by
  unfold peek; rw [hr, hg, hp]

/-- A read changes no byte. -/
@[simp] theorem peek_noteRead : peek (noteRead s a) b = peek s b :=
  peek_congr noteRead_ram noteRead_prg noteRead_params b

/-- A write leaves every byte elsewhere alone. -/
theorem peek_poke_other (h : place s.params b ≠ place s.params a) : peek (poke s a v) b = peek s b := by
  unfold peek
  rw [poke_params]
  unfold poke
  cases hb : place s.params b <;> cases ha : place s.params a <;> simp_all [Memory.read_write_other]

/-- A write to RAM or PRG is read back through every alias, in canonical memories (R109). -/
theorem peek_poke_same (hr : s.ram.wf = true) (hg : s.prg.wf = true) (hs : storable s.params a = true)
    (hab : place s.params b = place s.params a) : peek (poke s a v) b = v := by
  unfold peek
  rw [poke_params, hab]
  unfold poke
  unfold storable at hs
  cases ha : place s.params a <;> simp_all [Memory.read_write_same]

/-! ## Page 0 and the stack page are RAM (R100) -/

theorem zext16_toNat (b : Byte) : (zext16 b).toNat = b.toNat := by
  simp only [zext16, BitVec.toNat_setWidth]; have := b.isLt; omega

theorem stackAddr_toNat (b : Byte) : (stackAddr b).toNat = 0x100 + b.toNat := by
  simp only [stackAddr, BitVec.toNat_add, zext16_toNat]
  have := b.isLt
  simp; omega

theorem accessible_zeroPage (p : Params) (b : Byte) : Accessible p (zext16 b) :=
  .inl (by rw [zext16_toNat]; have := b.isLt; omega)

theorem accessible_stack (p : Params) (b : Byte) : Accessible p (stackAddr b) :=
  .inl (by rw [stackAddr_toNat]; have := b.isLt; omega)

theorem place_zeroPage (p : Params) (b : Byte) : place p (zext16 b) = .ram b.toNat := by
  have := b.isLt
  unfold place; rw [zext16_toNat, if_pos (by omega), Nat.mod_eq_of_lt (by omega)]

theorem place_stack (p : Params) (b : Byte) : place p (stackAddr b) = .ram (0x100 + b.toNat) := by
  have := b.isLt
  unfold place; rw [stackAddr_toNat, if_pos (by omega), Nat.mod_eq_of_lt (by omega)]

theorem noteRead_zeroPage (s : State) (b : Byte) : noteRead s (zext16 b) = s := by
  unfold noteRead; rw [place_zeroPage]

theorem peek_zeroPage (s : State) (b : Byte) : peek s (zext16 b) = s.ram.read b.toNat := by
  unfold peek; rw [place_zeroPage]

theorem noteRead_stack (s : State) (b : Byte) : noteRead s (stackAddr b) = s := by
  unfold noteRead; rw [place_stack]

theorem peek_stack (s : State) (b : Byte) : peek s (stackAddr b) = s.ram.read (0x100 + b.toNat) := by
  unfold peek; rw [place_stack]

theorem poke_stack (s : State) (b v : Byte) : poke s (stackAddr b) v = s.writeRam (0x100 + b.toNat) v := by
  unfold poke; rw [place_stack]

end Sys2Proof.Machine
end

