-- ==== Sys2Proof/Laws/Ops.lean ====
section
/-! SUPPORT. One equation per shared operation, saying everything it can do; the instructions' lemmas cite
these instead of unfolding the operations. -/

namespace Sys2Proof.Machine

variable {s : State} {a : Addr} {v : Byte} {o : Operand}

/-! ## Access -/

section AccessLemmas
variable {α β : Type}

@[simp] theorem Access.andThen_ok (x : α) (s : State) (k : α → State → Access β) :
    (Access.ok x s).andThen k = k x s := rfl

@[simp] theorem Access.andThen_hardFault (e : HardFault) (s : State) (k : α → State → Access β) :
    (Access.hardFault e s : Access α).andThen k = .hardFault e s := rfl

@[simp] theorem Access.andThen_raise (e : HardFault) (s : State) (k : α → State → Access β) :
    (Access.raise e s : Access α).andThen k = .raise e s := rfl

@[simp] theorem Access.complete_ok (n : Nat) (s : State) :
    (Access.ok () s).complete n = .next (s.setRemaining n) := rfl

@[simp] theorem Access.complete_raise (n : Nat) (e : HardFault) (s : State) :
    (Access.raise e s).complete n = .fault (.hardFault e (s.setFault e)) := rfl

end AccessLemmas

/-! ## Words -/

theorem word_toNat (h l : Byte) : (word h l).toNat = h.toNat * 256 + l.toNat := by
  have := h.isLt
  have := l.isLt
  simp only [word, BitVec.toNat_ofNat]
  omega

theorem hi8_toNat (w : Addr) : (hi8 w).toNat = w.toNat / 256 := by
  have := w.isLt
  simp only [hi8, BitVec.extractLsb'_toNat, Nat.shiftRight_eq_div_pow]
  omega

theorem lo8_toNat (w : Addr) : (lo8 w).toNat = w.toNat % 256 := by
  simp [lo8, BitVec.extractLsb'_toNat]

/-- The two bytes of a word give it back (R9). -/
@[simp] theorem word_hi8_lo8 (w : Addr) : word (hi8 w) (lo8 w) = w := by
  apply BitVec.eq_of_toNat_eq
  rw [word_toNat, hi8_toNat, lo8_toNat]
  omega

@[simp] theorem hi8_word (h l : Byte) : hi8 (word h l) = h := by
  have := l.isLt
  apply BitVec.eq_of_toNat_eq
  rw [hi8_toNat, word_toNat]
  omega

@[simp] theorem lo8_word (h l : Byte) : lo8 (word h l) = l := by
  have := l.isLt
  apply BitVec.eq_of_toNat_eq
  rw [lo8_toNat, word_toNat]
  omega

/-- A two-byte pointer in page 0 is read without a diagnostic or a fault. -/
theorem memReadZP16_eq (p : Byte) (s : State) : memReadZP16 p s = .ok (peekZP16 s p) s := by
  unfold memReadZP16 peekZP16
  simp only [cpuBusRead_accessible (accessible_zeroPage _ _), noteRead_zeroPage, Access.andThen_ok]

/-- A 16-bit read of two accessible bytes. -/
theorem memRead16_eq (h1 : Accessible s.params a) (h2 : Accessible s.params (a + 1)) :
    memRead16 a s = .ok (peek16 s a) (noteRead (noteRead s a) (a + 1)) := by
  unfold memRead16 peek16
  rw [cpuBusRead_accessible h1, Access.andThen_ok,
    cpuBusRead_accessible (by rw [noteRead_params]; exact h2), Access.andThen_ok, peek_noteRead]

/-- A 16-bit read of PRG memory, which exists, records nothing. -/
theorem memRead16_prg_memory (h1 : 0x8000 ≤ a.toNat) (h2 : 0x8000 ≤ (a + 1).toNat)
    (hp : 0 < s.params.prgBanks.val) : memRead16 a s = .ok (peek16 s a) s := by
  rw [memRead16_eq (.inr hp) (.inr hp), noteRead_prg_memory h1 hp, noteRead_prg_memory h2 hp]

/-! ## The stack -/

/-- A push lands in the stack page of RAM and cannot fail. -/
theorem push_eq (v : Byte) (s : State) :
    push v s = .ok () ((s.setSp (s.sp - 1)).writeRam (0x100 + (s.sp - 1).toNat) v) := by
  unfold push
  rw [cpuBusWrite_accessible (accessible_stack _ _), poke_stack]; rfl

/-- A pop reads the stack page of RAM, zeroes the slot and cannot fail. -/
theorem pop_eq (s : State) :
    pop s = .ok (s.ram.read (0x100 + s.sp.toNat))
      ((s.writeRam (0x100 + s.sp.toNat) 0x00).setSp (s.sp + 1)) := by
  unfold pop
  rw [cpuBusRead_accessible (accessible_stack _ _), Access.andThen_ok, noteRead_stack,
    cpuBusWrite_accessible (accessible_stack _ _), Access.andThen_ok, poke_stack, peek_stack]; rfl

/-- Popping PC: two slots, zeroed as they are read. -/
theorem popPc_eq (s : State) :
    popPc s = .ok () { s with
      pc := word ((s.ram.write (0x100 + s.sp.toNat) 0x00).read (0x100 + (s.sp + 1).toNat))
        (s.ram.read (0x100 + s.sp.toNat)) + 1
      sp := s.sp + 1 + 1
      ram := (s.ram.write (0x100 + s.sp.toNat) 0x00).write (0x100 + (s.sp + 1).toNat) 0x00 } := by
  unfold popPc
  rw [pop_eq, Access.andThen_ok, pop_eq, Access.andThen_ok]; rfl

/-- The three pushes of the trap's entry. -/
theorem takeTrap_pushes (s : State) :
    takeTrap s = (memRead16 Config.brkVector { s with
      sp := s.sp - 1 - 1 - 1
      ram := ((s.ram.write (0x100 + (s.sp - 1).toNat) (hi8 s.pc)).write
        (0x100 + (s.sp - 1 - 1).toNat) (lo8 s.pc)).write
        (0x100 + (s.sp - 1 - 1 - 1).toNat) s.flags.pack }).andThen
      fun v s => .ok () (s.setPc v) := by
  unfold takeTrap
  simp only [push_eq, Access.andThen_ok]; rfl

/-- The return from the trap: three slots, zeroed as they are read. -/
theorem returnFromTrap_eq (s : State) :
    returnFromTrap s = popPc { s with
      sp := s.sp + 1
      ram := s.ram.write (0x100 + s.sp.toNat) 0x00
      flags := .unpack (s.ram.read (0x100 + s.sp.toNat)) } := by
  unfold returnFromTrap
  rw [pop_eq, Access.andThen_ok]; rfl

/-! ## Operands -/

/-- The effective address is the formula's, with no diagnostic and no fault. -/
theorem ea_eq (o : Operand) (s : State) : ea o s = .ok (effAddr o s) s := by
  cases o <;> simp [ea, effAddr, memReadZP16_eq]

/-- Reading an accessible operand. -/
theorem readOperand_eq (h : OperandAccessible o s) :
    readOperand o s = .ok (operandByte o s) (noteOperand o s) := by
  cases o <;>
    first
    | rfl
    | (simp only [readOperand, ea_eq, Access.andThen_ok]
       exact cpuBusRead_accessible h)

/-- Storing to an accessible address. -/
theorem storeOperand_eq (h : Accessible s.params (effAddr o s)) :
    storeOperand o v s = .ok () (poke s (effAddr o s) v) := by
  unfold storeOperand
  rw [ea_eq, Access.andThen_ok, cpuBusWrite_accessible h]

/-- A read-modify-write of an accessible address. -/
theorem modifyOperand_eq (f : Byte → Flags → Byte × Flags) (h : Accessible s.params (effAddr o s)) :
    modifyOperand o f s = .ok () ((poke (noteRead s (effAddr o s)) (effAddr o s)
      (f (peek s (effAddr o s)) s.flags).1).setFlags (f (peek s (effAddr o s)) s.flags).2) := by
  unfold modifyOperand
  rw [ea_eq, Access.andThen_ok, cpuBusRead_accessible h, Access.andThen_ok]
  simp only [noteRead_flags]
  rw [cpuBusWrite_accessible (by rw [noteRead_params]; exact h), Access.andThen_ok]

/-- An operand that is not accessible raises the hard fault on its read. -/
theorem readOperand_not_accessible (h : ¬ OperandAccessible o s) :
    readOperand o s =
      .raise (.prgIndexOutOfBounds (effAddr o s) ((effAddr o s).toNat % 0x4000)) s := by
  cases o <;>
    first
    | exact absurd trivial h
    | (simp only [readOperand, ea_eq, Access.andThen_ok]
       exact cpuBusRead_not_accessible h)

@[simp] theorem noteOperand_params : (noteOperand o s).params = s.params := by
  cases o <;> simp [noteOperand]

/-- Reading an operand changes nothing but DIAG. -/
theorem noteOperand_eq (o : Operand) (s : State) :
    noteOperand o s = { s with diag := (noteOperand o s).diag } := by
  cases o <;> simp only [noteOperand] <;> first | rfl | exact noteRead_eq _ _

/-! ## Fetch -/

/-- Fetching an accessible byte. -/
theorem fetch8_eq (h : Accessible s.params s.pc) :
    fetch8 s = .ok (peek s s.pc) ((noteRead s s.pc).setPc (s.pc + 1)) := by
  unfold fetch8
  rw [cpuBusRead_accessible h, Access.andThen_ok, noteRead_pc]

/-- Fetching a byte from an address that is not accessible. -/
theorem fetch8_not_accessible (h : ¬ Accessible s.params s.pc) :
    fetch8 s = .raise (.prgIndexOutOfBounds s.pc (s.pc.toNat % 0x4000)) s := by
  unfold fetch8
  rw [cpuBusRead_not_accessible h, Access.andThen_raise]

end Sys2Proof.Machine
end

