-- ==== Sys2Proof/Laws/Decode.lean ====
section
/-! SUPPORT. The decoder by the number of operand bytes, and row by row of the opcode map: what the map
gives is well-formed and encodes back to the bytes read. -/

namespace Sys2Proof.Machine

/-- Every word is two bytes. -/
theorem word_surjective (w : Addr) : ∃ h l, w = word h l := ⟨hi8 w, lo8 w, (word_hi8_lo8 w).symm⟩

/-! ## `decode` by the number of operand bytes -/

theorem decode_none {op : Byte} (h : operandBytesOf op = 0) (rest : List Byte) :
    decode (op :: rest) = .ok (decodeInstr op 0 0, rest) := by
  simp only [decode, h]

theorem decode_one {op : Byte} (h : operandBytesOf op = 1) (b1 : Byte) (rest : List Byte) :
    decode (op :: b1 :: rest) = .ok (decodeInstr op b1 0, rest) := by
  simp only [decode, h]

theorem decode_two {op : Byte} (h : operandBytesOf op = 2) (b1 b2 : Byte) (rest : List Byte) :
    decode (op :: b1 :: b2 :: rest) = .ok (decodeInstr op b1 b2, rest) := by
  simp only [decode, h]

/-! ## The map -/

/-- The map's entry for an opcode byte is well-formed, has the operand bytes that the byte alone
tells, and encodes back to the byte and as many operand bytes. -/
def EncodesBack (op b1 b2 : Byte) : Prop :=
  (decodeInstr op b1 b2).wellFormed = true ∧
  (decodeInstr op b1 b2).operandBytes = operandBytesOf op ∧
  encode (decodeInstr op b1 b2) = some (op :: [b1, b2].take (operandBytesOf op))

theorem opcodeRow0_encodes (b1 b2 : Byte) (n : Nat) (h1 : 0 ≤ n) (h2 : n < 16) :
    EncodesBack (BitVec.ofNat 8 n) b1 b2 := by
  have hh := hi8_word b2 b1
  have hl := lo8_word b2 b1
  interval_cases n <;> first
    | (refine ⟨rfl, show 2 = operandBytesOf _ from rfl, ?_⟩
       show some (_ :: [lo8 (word b2 b1), hi8 (word b2 b1)]) = _
       rw [hl, hh]; rfl)
    | exact ⟨rfl, show 1 = operandBytesOf _ from rfl, rfl⟩
    | exact ⟨rfl, show 0 = operandBytesOf _ from rfl, rfl⟩

theorem opcodeRow1_encodes (b1 b2 : Byte) (n : Nat) (h1 : 16 ≤ n) (h2 : n < 32) :
    EncodesBack (BitVec.ofNat 8 n) b1 b2 := by
  have hh := hi8_word b2 b1
  have hl := lo8_word b2 b1
  interval_cases n <;> first
    | (refine ⟨rfl, show 2 = operandBytesOf _ from rfl, ?_⟩
       show some (_ :: [lo8 (word b2 b1), hi8 (word b2 b1)]) = _
       rw [hl, hh]; rfl)
    | exact ⟨rfl, show 1 = operandBytesOf _ from rfl, rfl⟩
    | exact ⟨rfl, show 0 = operandBytesOf _ from rfl, rfl⟩

theorem opcodeRow2_encodes (b1 b2 : Byte) (n : Nat) (h1 : 32 ≤ n) (h2 : n < 48) :
    EncodesBack (BitVec.ofNat 8 n) b1 b2 := by
  have hh := hi8_word b2 b1
  have hl := lo8_word b2 b1
  interval_cases n <;> first
    | (refine ⟨rfl, show 2 = operandBytesOf _ from rfl, ?_⟩
       show some (_ :: [lo8 (word b2 b1), hi8 (word b2 b1)]) = _
       rw [hl, hh]; rfl)
    | exact ⟨rfl, show 1 = operandBytesOf _ from rfl, rfl⟩
    | exact ⟨rfl, show 0 = operandBytesOf _ from rfl, rfl⟩

theorem opcodeRow3_encodes (b1 b2 : Byte) (n : Nat) (h1 : 48 ≤ n) (h2 : n < 64) :
    EncodesBack (BitVec.ofNat 8 n) b1 b2 := by
  have hh := hi8_word b2 b1
  have hl := lo8_word b2 b1
  interval_cases n <;> first
    | (refine ⟨rfl, show 2 = operandBytesOf _ from rfl, ?_⟩
       show some (_ :: [lo8 (word b2 b1), hi8 (word b2 b1)]) = _
       rw [hl, hh]; rfl)
    | exact ⟨rfl, show 1 = operandBytesOf _ from rfl, rfl⟩
    | exact ⟨rfl, show 0 = operandBytesOf _ from rfl, rfl⟩

theorem opcodeRow4_encodes (b1 b2 : Byte) (n : Nat) (h1 : 64 ≤ n) (h2 : n < 80) :
    EncodesBack (BitVec.ofNat 8 n) b1 b2 := by
  have hh := hi8_word b2 b1
  have hl := lo8_word b2 b1
  interval_cases n <;> first
    | (refine ⟨rfl, show 2 = operandBytesOf _ from rfl, ?_⟩
       show some (_ :: [lo8 (word b2 b1), hi8 (word b2 b1)]) = _
       rw [hl, hh]; rfl)
    | exact ⟨rfl, show 1 = operandBytesOf _ from rfl, rfl⟩
    | exact ⟨rfl, show 0 = operandBytesOf _ from rfl, rfl⟩

theorem opcodeRow5_encodes (b1 b2 : Byte) (n : Nat) (h1 : 80 ≤ n) (h2 : n < 96) :
    EncodesBack (BitVec.ofNat 8 n) b1 b2 := by
  have hh := hi8_word b2 b1
  have hl := lo8_word b2 b1
  interval_cases n <;> first
    | (refine ⟨rfl, show 2 = operandBytesOf _ from rfl, ?_⟩
       show some (_ :: [lo8 (word b2 b1), hi8 (word b2 b1)]) = _
       rw [hl, hh]; rfl)
    | exact ⟨rfl, show 1 = operandBytesOf _ from rfl, rfl⟩
    | exact ⟨rfl, show 0 = operandBytesOf _ from rfl, rfl⟩

theorem opcodeRow6_encodes (b1 b2 : Byte) (n : Nat) (h1 : 96 ≤ n) (h2 : n < 112) :
    EncodesBack (BitVec.ofNat 8 n) b1 b2 := by
  have hh := hi8_word b2 b1
  have hl := lo8_word b2 b1
  interval_cases n <;> first
    | (refine ⟨rfl, show 2 = operandBytesOf _ from rfl, ?_⟩
       show some (_ :: [lo8 (word b2 b1), hi8 (word b2 b1)]) = _
       rw [hl, hh]; rfl)
    | exact ⟨rfl, show 1 = operandBytesOf _ from rfl, rfl⟩
    | exact ⟨rfl, show 0 = operandBytesOf _ from rfl, rfl⟩

theorem opcodeRow7_encodes (b1 b2 : Byte) (n : Nat) (h1 : 112 ≤ n) (h2 : n < 128) :
    EncodesBack (BitVec.ofNat 8 n) b1 b2 := by
  have hh := hi8_word b2 b1
  have hl := lo8_word b2 b1
  interval_cases n <;> first
    | (refine ⟨rfl, show 2 = operandBytesOf _ from rfl, ?_⟩
       show some (_ :: [lo8 (word b2 b1), hi8 (word b2 b1)]) = _
       rw [hl, hh]; rfl)
    | exact ⟨rfl, show 1 = operandBytesOf _ from rfl, rfl⟩
    | exact ⟨rfl, show 0 = operandBytesOf _ from rfl, rfl⟩

theorem opcodeRow8_encodes (b1 b2 : Byte) (n : Nat) (h1 : 128 ≤ n) (h2 : n < 144) :
    EncodesBack (BitVec.ofNat 8 n) b1 b2 := by
  have hh := hi8_word b2 b1
  have hl := lo8_word b2 b1
  interval_cases n <;> first
    | (refine ⟨rfl, show 2 = operandBytesOf _ from rfl, ?_⟩
       show some (_ :: [lo8 (word b2 b1), hi8 (word b2 b1)]) = _
       rw [hl, hh]; rfl)
    | exact ⟨rfl, show 1 = operandBytesOf _ from rfl, rfl⟩
    | exact ⟨rfl, show 0 = operandBytesOf _ from rfl, rfl⟩

theorem opcodeRow9_encodes (b1 b2 : Byte) (n : Nat) (h1 : 144 ≤ n) (h2 : n < 160) :
    EncodesBack (BitVec.ofNat 8 n) b1 b2 := by
  have hh := hi8_word b2 b1
  have hl := lo8_word b2 b1
  interval_cases n <;> first
    | (refine ⟨rfl, show 2 = operandBytesOf _ from rfl, ?_⟩
       show some (_ :: [lo8 (word b2 b1), hi8 (word b2 b1)]) = _
       rw [hl, hh]; rfl)
    | exact ⟨rfl, show 1 = operandBytesOf _ from rfl, rfl⟩
    | exact ⟨rfl, show 0 = operandBytesOf _ from rfl, rfl⟩

theorem opcodeRowA_encodes (b1 b2 : Byte) (n : Nat) (h1 : 160 ≤ n) (h2 : n < 176) :
    EncodesBack (BitVec.ofNat 8 n) b1 b2 := by
  have hh := hi8_word b2 b1
  have hl := lo8_word b2 b1
  interval_cases n <;> first
    | (refine ⟨rfl, show 2 = operandBytesOf _ from rfl, ?_⟩
       show some (_ :: [lo8 (word b2 b1), hi8 (word b2 b1)]) = _
       rw [hl, hh]; rfl)
    | exact ⟨rfl, show 1 = operandBytesOf _ from rfl, rfl⟩
    | exact ⟨rfl, show 0 = operandBytesOf _ from rfl, rfl⟩

theorem opcodeRowB_encodes (b1 b2 : Byte) (n : Nat) (h1 : 176 ≤ n) (h2 : n < 192) :
    EncodesBack (BitVec.ofNat 8 n) b1 b2 := by
  have hh := hi8_word b2 b1
  have hl := lo8_word b2 b1
  interval_cases n <;> first
    | (refine ⟨rfl, show 2 = operandBytesOf _ from rfl, ?_⟩
       show some (_ :: [lo8 (word b2 b1), hi8 (word b2 b1)]) = _
       rw [hl, hh]; rfl)
    | exact ⟨rfl, show 1 = operandBytesOf _ from rfl, rfl⟩
    | exact ⟨rfl, show 0 = operandBytesOf _ from rfl, rfl⟩

theorem opcodeRowC_encodes (b1 b2 : Byte) (n : Nat) (h1 : 192 ≤ n) (h2 : n < 208) :
    EncodesBack (BitVec.ofNat 8 n) b1 b2 := by
  have hh := hi8_word b2 b1
  have hl := lo8_word b2 b1
  interval_cases n <;> first
    | (refine ⟨rfl, show 2 = operandBytesOf _ from rfl, ?_⟩
       show some (_ :: [lo8 (word b2 b1), hi8 (word b2 b1)]) = _
       rw [hl, hh]; rfl)
    | exact ⟨rfl, show 1 = operandBytesOf _ from rfl, rfl⟩
    | exact ⟨rfl, show 0 = operandBytesOf _ from rfl, rfl⟩

theorem opcodeRowD_encodes (b1 b2 : Byte) (n : Nat) (h1 : 208 ≤ n) (h2 : n < 224) :
    EncodesBack (BitVec.ofNat 8 n) b1 b2 := by
  have hh := hi8_word b2 b1
  have hl := lo8_word b2 b1
  interval_cases n <;> first
    | (refine ⟨rfl, show 2 = operandBytesOf _ from rfl, ?_⟩
       show some (_ :: [lo8 (word b2 b1), hi8 (word b2 b1)]) = _
       rw [hl, hh]; rfl)
    | exact ⟨rfl, show 1 = operandBytesOf _ from rfl, rfl⟩
    | exact ⟨rfl, show 0 = operandBytesOf _ from rfl, rfl⟩

theorem opcodeRowE_encodes (b1 b2 : Byte) (n : Nat) (h1 : 224 ≤ n) (h2 : n < 240) :
    EncodesBack (BitVec.ofNat 8 n) b1 b2 := by
  have hh := hi8_word b2 b1
  have hl := lo8_word b2 b1
  interval_cases n <;> first
    | (refine ⟨rfl, show 2 = operandBytesOf _ from rfl, ?_⟩
       show some (_ :: [lo8 (word b2 b1), hi8 (word b2 b1)]) = _
       rw [hl, hh]; rfl)
    | exact ⟨rfl, show 1 = operandBytesOf _ from rfl, rfl⟩
    | exact ⟨rfl, show 0 = operandBytesOf _ from rfl, rfl⟩

theorem opcodeRowF_encodes (b1 b2 : Byte) (n : Nat) (h1 : 240 ≤ n) (h2 : n < 256) :
    EncodesBack (BitVec.ofNat 8 n) b1 b2 := by
  have hh := hi8_word b2 b1
  have hl := lo8_word b2 b1
  interval_cases n <;> first
    | (refine ⟨rfl, show 2 = operandBytesOf _ from rfl, ?_⟩
       show some (_ :: [lo8 (word b2 b1), hi8 (word b2 b1)]) = _
       rw [hl, hh]; rfl)
    | exact ⟨rfl, show 1 = operandBytesOf _ from rfl, rfl⟩
    | exact ⟨rfl, show 0 = operandBytesOf _ from rfl, rfl⟩

/-- Every entry of the opcode map encodes back. -/
theorem decodeInstr_encodes (op b1 b2 : Byte) : EncodesBack op b1 b2 := by
  have hop : op = BitVec.ofNat 8 op.toNat := by simp
  have hlt := op.isLt
  rw [hop]
  generalize op.toNat = n at hlt
  have hrow : n / 16 = 0 ∨ n / 16 = 1 ∨ n / 16 = 2 ∨ n / 16 = 3 ∨
      n / 16 = 4 ∨ n / 16 = 5 ∨ n / 16 = 6 ∨ n / 16 = 7 ∨
      n / 16 = 8 ∨ n / 16 = 9 ∨ n / 16 = 10 ∨ n / 16 = 11 ∨
      n / 16 = 12 ∨ n / 16 = 13 ∨ n / 16 = 14 ∨ n / 16 = 15 := by omega
  rcases hrow with h | h | h | h | h | h | h | h | h | h | h | h | h | h | h | h
  · exact opcodeRow0_encodes b1 b2 n (by omega) (by omega)
  · exact opcodeRow1_encodes b1 b2 n (by omega) (by omega)
  · exact opcodeRow2_encodes b1 b2 n (by omega) (by omega)
  · exact opcodeRow3_encodes b1 b2 n (by omega) (by omega)
  · exact opcodeRow4_encodes b1 b2 n (by omega) (by omega)
  · exact opcodeRow5_encodes b1 b2 n (by omega) (by omega)
  · exact opcodeRow6_encodes b1 b2 n (by omega) (by omega)
  · exact opcodeRow7_encodes b1 b2 n (by omega) (by omega)
  · exact opcodeRow8_encodes b1 b2 n (by omega) (by omega)
  · exact opcodeRow9_encodes b1 b2 n (by omega) (by omega)
  · exact opcodeRowA_encodes b1 b2 n (by omega) (by omega)
  · exact opcodeRowB_encodes b1 b2 n (by omega) (by omega)
  · exact opcodeRowC_encodes b1 b2 n (by omega) (by omega)
  · exact opcodeRowD_encodes b1 b2 n (by omega) (by omega)
  · exact opcodeRowE_encodes b1 b2 n (by omega) (by omega)
  · exact opcodeRowF_encodes b1 b2 n (by omega) (by omega)

/-- No opcode has more than two operand bytes. -/
theorem operandBytesOf_le (op : Byte) : operandBytesOf op ≤ 2 := by
  revert op; decide

/-- The length of what the map gives, from the opcode byte. -/
theorem decodeInstr_length (op b1 b2 : Byte) : (decodeInstr op b1 b2).length = 1 + operandBytesOf op := by
  rw [Instr.length, (decodeInstr_encodes op b1 b2).2.1]

/-! ## Fetching an instruction -/

/-- A read does not look at PC. -/
theorem noteRead_setPc (s : State) (a pc : Addr) : noteRead (s.setPc pc) a = (noteRead s a).setPc pc := by
  unfold noteRead
  rw [State.setPc_params]
  split <;> (try split) <;> rfl

@[simp] theorem setPc_setPc (s : State) (p q : Addr) : (s.setPc p).setPc q = s.setPc q := rfl

/-- Fetching the instruction that the bytes at PC decode to, when its bytes are accessible: the bytes are read in
ascending order and PC ends past them. -/
theorem fetchInstr_eq {s : State} {i : Instr} {rest : List Byte} (h : decode (bytesAtPc s) = .ok (i, rest))
    (ha : ∀ k < i.length, Accessible s.params (s.pc + BitVec.ofNat 16 k)) :
    fetchInstr s = .ok i (fetched i.length s) := by
  unfold bytesAtPc at h
  have h0 : Accessible s.params s.pc := by simpa using ha 0 (by unfold Instr.length; omega)
  unfold fetchInstr
  rw [fetch8_eq h0, Access.andThen_ok]
  generalize peek s s.pc = op at h ⊢
  have hle := operandBytesOf_le op
  have p1 : ∀ t : State, t.ram = s.ram → t.prg = s.prg → t.params = s.params → ∀ a, peek t a = peek s a :=
    fun t hr hg hp a => peek_congr hr hg hp a
  obtain h0 | h1 | h2 : operandBytesOf op = 0 ∨ operandBytesOf op = 1 ∨ operandBytesOf op = 2 := by omega
  · rw [decode_none h0] at h
    obtain ⟨rfl, -⟩ := Prod.mk.inj (Except.ok.inj h)
    simp only [h0, decodeInstr_length]; rfl
  · rw [decode_one h1] at h
    obtain ⟨rfl, -⟩ := Prod.mk.inj (Except.ok.inj h)
    simp only [decodeInstr_length, h1] at ha ⊢
    have a1 : Accessible s.params (s.pc + 1) := ha 1 (by omega)
    rw [fetch8_eq (by simpa using a1), Access.andThen_ok, p1 _ (by simp) (by simp) (by simp)]
    simp only [State.setPc_pc, noteRead_setPc, setPc_setPc, fetched, noteReads]
    rw [show s.pc + 1 + 1 = s.pc + BitVec.ofNat 16 (1 + 1) by bv_omega]
  · rw [decode_two h2] at h
    obtain ⟨rfl, -⟩ := Prod.mk.inj (Except.ok.inj h)
    simp only [decodeInstr_length, h2] at ha ⊢
    have a1 : Accessible s.params (s.pc + 1) := ha 1 (by omega)
    have a2 : Accessible s.params (s.pc + 1 + 1) := by
      have := ha 2 (by omega)
      rwa [show s.pc + BitVec.ofNat 16 2 = s.pc + 1 + 1 by bv_omega] at this
    rw [fetch8_eq (by simpa using a1), Access.andThen_ok, fetch8_eq (by simpa using a2), Access.andThen_ok,
      p1 _ (by simp) (by simp) (by simp)]
    simp only [State.setPc_pc, noteRead_setPc, setPc_setPc, fetched, noteReads]
    rw [show s.pc + 1 + 1 + 1 = s.pc + BitVec.ofNat 16 (1 + 2) by bv_omega,
      show s.pc + 1 + 1 = s.pc + 2 by bv_omega,
      p1 ((noteRead (noteRead s s.pc) (s.pc + 1)).setPc (s.pc + 2)) (by simp) (by simp) (by simp)]

end Sys2Proof.Machine
end

