-- ==== Sys2Proof/Laws/Exec.lean ====
section
/-! SUPPORT. What an instruction of each shape can do when it gives a next state, said once per shape: reading
its operand, storing to it, modifying it, shifting, jumping, taking the trap. -/

namespace Sys2Proof.Machine

open Host (Outcome)

variable {s t : State} {o : Operand} {n : Nat} {v : Byte}

/-! ## Fields that reading an operand leaves alone -/

@[simp] theorem noteOperand_a : (noteOperand o s).a = s.a := by rw [noteOperand_eq]
@[simp] theorem noteOperand_x : (noteOperand o s).x = s.x := by rw [noteOperand_eq]
@[simp] theorem noteOperand_y : (noteOperand o s).y = s.y := by rw [noteOperand_eq]
@[simp] theorem noteOperand_sp : (noteOperand o s).sp = s.sp := by rw [noteOperand_eq]
@[simp] theorem noteOperand_pc : (noteOperand o s).pc = s.pc := by rw [noteOperand_eq]
@[simp] theorem noteOperand_flags : (noteOperand o s).flags = s.flags := by rw [noteOperand_eq]
@[simp] theorem noteOperand_ram : (noteOperand o s).ram = s.ram := by rw [noteOperand_eq]
@[simp] theorem noteOperand_prg : (noteOperand o s).prg = s.prg := by rw [noteOperand_eq]
@[simp] theorem noteOperand_chr : (noteOperand o s).chr = s.chr := by rw [noteOperand_eq]
@[simp] theorem noteOperand_ppu : (noteOperand o s).ppu = s.ppu := by rw [noteOperand_eq]
@[simp] theorem noteOperand_remainingCycles :
    (noteOperand o s).remainingCycles = s.remainingCycles := by rw [noteOperand_eq]
@[simp] theorem noteOperand_phase : (noteOperand o s).phase = s.phase := by rw [noteOperand_eq]
@[simp] theorem noteOperand_fault : (noteOperand o s).fault = s.fault := by rw [noteOperand_eq]

/-! ## Cycle counts -/

theorem cycleCount_range (p : Config.Params) (op : Byte) : 1 ≤ p.cycleCount op ∧ p.cycleCount op ≤ 7 := by
  unfold Config.Params.cycleCount
  omega

/-- The count of an instruction that has an encoding is its opcode byte's. -/
theorem baseCycles_of_encode {p : Config.Params} {i : Instr} {op : Byte} {rest : List Byte}
    (h : encode i = some (op :: rest)) : baseCycles p i = p.cycleCount op := by
  obtain ⟨op', ho, he⟩ := Option.map_eq_some_iff.mp h
  simp only [List.cons.injEq] at he
  rw [baseCycles, ho, he.1]

theorem baseCycles_le (p : Config.Params) (i : Instr) : baseCycles p i ≤ 7 := by
  unfold baseCycles
  split
  · exact (cycleCount_range p _).2
  · omega

/-! ## Reading, storing, modifying -/

/-- An instruction that reads its operand and then changes the state by `k`. -/
theorem complete_readOperand {k : Byte → State → State}
    (h : ((readOperand o s).andThen fun m s => .ok () (k m s)).complete n = .next t) :
    OperandAccessible o s ∧ t = (k (operandByte o s) (noteOperand o s)).setRemaining n := by
  by_cases ho : OperandAccessible o s
  · rw [readOperand_eq ho] at h
    exact ⟨ho, (Outcome.next.inj h).symm⟩
  · rw [readOperand_not_accessible ho] at h
    simp at h

/-- An instruction that stores `v` to its operand. -/
theorem complete_storeOperand (h : (storeOperand o v s).complete n = .next t) :
    Accessible s.params (effAddr o s) ∧ t = (poke s (effAddr o s) v).setRemaining n := by
  by_cases ho : Accessible s.params (effAddr o s)
  · rw [storeOperand_eq ho] at h
    exact ⟨ho, (Outcome.next.inj h).symm⟩
  · rw [storeOperand, ea_eq, Access.andThen_ok, cpuBusWrite_not_accessible ho] at h
    simp at h

/-- An instruction that modifies its operand in memory. -/
theorem complete_modifyOperand {f : Byte → Flags → Byte × Flags}
    (h : (modifyOperand o f s).complete n = .next t) :
    Accessible s.params (effAddr o s) ∧
    t = (((poke (noteRead s (effAddr o s)) (effAddr o s)
      (f (peek s (effAddr o s)) s.flags).1).setFlags (f (peek s (effAddr o s)) s.flags).2)).setRemaining n := by
  by_cases ho : Accessible s.params (effAddr o s)
  · rw [modifyOperand_eq f ho] at h
    exact ⟨ho, (Outcome.next.inj h).symm⟩
  · rw [modifyOperand, ea_eq, Access.andThen_ok, cpuBusRead_not_accessible ho] at h
    simp at h

/-- A shift or rotate of the accumulator. -/
theorem complete_modifyShift_acc {f : Byte → Flags → Byte × Flags}
    (h : (modifyShift .acc f s).complete n = .next t) :
    t = ((s.setA (f s.a s.flags).1).setFlags (f s.a s.flags).2).setRemaining n :=
  (Outcome.next.inj h).symm

/-- A shift or rotate of memory. -/
theorem complete_modifyShift_mem {f : Byte → Flags → Byte × Flags}
    (h : (modifyShift (.mem o) f s).complete n = .next t) :
    Accessible s.params (effAddr o s) ∧
    t = (((poke (noteRead s (effAddr o s)) (effAddr o s)
      (f (peek s (effAddr o s)) s.flags).1).setFlags (f (peek s (effAddr o s)) s.flags).2)).setRemaining n :=
  complete_modifyOperand h

/-- Jumping: only DIAG and PC change, besides the cycle count. -/
theorem complete_jumpTarget {j : JumpTarget}
    (h : ((jumpTarget j s).andThen fun w s => .ok () (s.setPc w)).complete n = .next t) :
    ∃ d w, t = ({ s with diag := d }.setPc w).setRemaining n := by
  cases j with
  | abs w => exact ⟨s.diag, w, (Outcome.next.inj h).symm⟩
  | ind w =>
    by_cases h1 : Accessible s.params w
    · by_cases h2 : Accessible s.params (w + 1)
      · rw [jumpTarget, memRead16_eq h1 h2] at h
        refine ⟨(noteRead (noteRead s w) (w + 1)).diag, peek16 s w, (Outcome.next.inj h).symm.trans ?_⟩
        have e : noteRead (noteRead s w) (w + 1) =
            { s with diag := (noteRead (noteRead s w) (w + 1)).diag } := by
          conv_lhs => rw [noteRead_eq (noteRead s w) (w + 1)]
          simp only [noteRead_a, noteRead_x, noteRead_y, noteRead_sp, noteRead_pc, noteRead_flags,
            noteRead_ram, noteRead_prg, noteRead_chr, noteRead_ppu, noteRead_remainingCycles,
            noteRead_phase, noteRead_fault, noteRead_params]
        exact congrArg (fun u : State => (u.setPc (peek16 s w)).setRemaining n) e
      · rw [jumpTarget, memRead16, cpuBusRead_accessible h1, Access.andThen_ok,
          cpuBusRead_not_accessible (by rw [noteRead_params]; exact h2)] at h
        simp at h
    · rw [jumpTarget, memRead16, cpuBusRead_not_accessible h1] at h
      simp at h

/-- Taking the trap: three slots of the stack page are written, PC comes from the vector. -/
theorem complete_takeTrap (h : (takeTrap s).complete n = .next t) :
    0 < s.params.prgBanks.val ∧
    t = { s with
      sp := s.sp - 3
      ram := ((s.ram.write (0x100 + (s.sp - 1).toNat) (hi8 s.pc)).write
        (0x100 + (s.sp - 2).toNat) (lo8 s.pc)).write (0x100 + (s.sp - 3).toNat) s.flags.pack
      pc := peek16 s Config.brkVector
      remainingCycles := n } := by
  have h2 : s.sp - 1 - 1 = s.sp - 2 := by bv_omega
  have h3 : s.sp - 2 - 1 = s.sp - 3 := by bv_omega
  rw [takeTrap_pushes, h2, h3] at h
  by_cases hp : 0 < s.params.prgBanks.val
  · rw [memRead16_prg_memory (by decide) (by decide) (by exact hp)] at h
    refine ⟨hp, (Outcome.next.inj h).symm.trans ?_⟩
    unfold peek16
    simp only [peek_prg_memory (s := s) (a := Config.brkVector) (by decide) hp,
      peek_prg_memory (s := s) (a := Config.brkVector + 1) (by decide) hp]
    rw [peek_prg_memory (by decide) (by exact hp), peek_prg_memory (by decide) (by exact hp)]
    rfl
  · rw [memRead16, cpuBusRead_not_accessible (by simp [Accessible, Config.brkVector]; omega)] at h
    simp at h

end Sys2Proof.Machine
end

