-- ==== Sys2Proof/Laws/PerInstr.lean ====
section
/-! SUPPORT. A fact about every instruction as syntax, one lemma per constructor: the encoding of an instruction
is an opcode byte and its operand bytes, 1 to 3 bytes in all (30_encoding.md R121). -/

namespace Sys2Proof.Laws.EncodedLength

/-- The encoding has the instruction's length, 1, 2 or 3 bytes. -/
def Statement (i : Instr) : Prop :=
  ∀ bs, encode i = some bs → bs.length = i.length ∧ 1 ≤ i.length ∧ i.length ≤ 3

theorem operand_bytes_length (o : Operand) : o.bytes.length = o.operandBytes := by
  cases o <;> rfl

theorem operand_bytes_le (o : Operand) : o.operandBytes ≤ 2 := by
  cases o <;> simp [Operand.operandBytes]

theorem shift_bytes_length (o : ShiftOperand) : o.bytes.length = o.operandBytes := by
  cases o with
  | acc => rfl
  | mem o => exact operand_bytes_length o

theorem shift_bytes_le (o : ShiftOperand) : o.operandBytes ≤ 2 := by
  cases o with
  | acc => exact Nat.zero_le 2
  | mem o => exact operand_bytes_le o

/-- The opcode byte is one byte: what is left to show is the operand bytes' count. -/
theorem of_bytes {i : Instr} (h : i.bytes.length = i.operandBytes) (hle : i.operandBytes ≤ 2) : Statement i := by
  intro bs hbs
  obtain ⟨op, -, rfl⟩ := Option.map_eq_some_iff.mp hbs
  rw [List.length_cons, h, Instr.length]
  omega

theorem lda (o : Operand) : Statement (.lda o) := of_bytes (operand_bytes_length _) (operand_bytes_le _)
theorem ldx (o : Operand) : Statement (.ldx o) := of_bytes (operand_bytes_length _) (operand_bytes_le _)
theorem ldy (o : Operand) : Statement (.ldy o) := of_bytes (operand_bytes_length _) (operand_bytes_le _)
theorem sta (o : Operand) : Statement (.sta o) := of_bytes (operand_bytes_length _) (operand_bytes_le _)
theorem stx (o : Operand) : Statement (.stx o) := of_bytes (operand_bytes_length _) (operand_bytes_le _)
theorem sty (o : Operand) : Statement (.sty o) := of_bytes (operand_bytes_length _) (operand_bytes_le _)
theorem tax : Statement (.tax) := of_bytes rfl (Nat.zero_le 2)
theorem tay : Statement (.tay) := of_bytes rfl (Nat.zero_le 2)
theorem txa : Statement (.txa) := of_bytes rfl (Nat.zero_le 2)
theorem tya : Statement (.tya) := of_bytes rfl (Nat.zero_le 2)
theorem tsx : Statement (.tsx) := of_bytes rfl (Nat.zero_le 2)
theorem txs : Statement (.txs) := of_bytes rfl (Nat.zero_le 2)
theorem adc (o : Operand) : Statement (.adc o) := of_bytes (operand_bytes_length _) (operand_bytes_le _)
theorem sbc (o : Operand) : Statement (.sbc o) := of_bytes (operand_bytes_length _) (operand_bytes_le _)
theorem cmp (o : Operand) : Statement (.cmp o) := of_bytes (operand_bytes_length _) (operand_bytes_le _)
theorem cpx (o : Operand) : Statement (.cpx o) := of_bytes (operand_bytes_length _) (operand_bytes_le _)
theorem cpy (o : Operand) : Statement (.cpy o) := of_bytes (operand_bytes_length _) (operand_bytes_le _)
theorem inc (o : Operand) : Statement (.inc o) := of_bytes (operand_bytes_length _) (operand_bytes_le _)
theorem dec (o : Operand) : Statement (.dec o) := of_bytes (operand_bytes_length _) (operand_bytes_le _)
theorem inx : Statement (.inx) := of_bytes rfl (Nat.zero_le 2)
theorem iny : Statement (.iny) := of_bytes rfl (Nat.zero_le 2)
theorem dex : Statement (.dex) := of_bytes rfl (Nat.zero_le 2)
theorem dey : Statement (.dey) := of_bytes rfl (Nat.zero_le 2)
theorem and (o : Operand) : Statement (.and o) := of_bytes (operand_bytes_length _) (operand_bytes_le _)
theorem ora (o : Operand) : Statement (.ora o) := of_bytes (operand_bytes_length _) (operand_bytes_le _)
theorem eor (o : Operand) : Statement (.eor o) := of_bytes (operand_bytes_length _) (operand_bytes_le _)
theorem bit (o : Operand) : Statement (.bit o) := of_bytes (operand_bytes_length _) (operand_bytes_le _)
theorem asl (o : ShiftOperand) : Statement (.asl o) := of_bytes (shift_bytes_length _) (shift_bytes_le _)
theorem lsr (o : ShiftOperand) : Statement (.lsr o) := of_bytes (shift_bytes_length _) (shift_bytes_le _)
theorem rol (o : ShiftOperand) : Statement (.rol o) := of_bytes (shift_bytes_length _) (shift_bytes_le _)
theorem ror (o : ShiftOperand) : Statement (.ror o) := of_bytes (shift_bytes_length _) (shift_bytes_le _)
theorem bcc (off : Byte) : Statement (.bcc off) := of_bytes rfl (Nat.le_succ 1)
theorem bcs (off : Byte) : Statement (.bcs off) := of_bytes rfl (Nat.le_succ 1)
theorem beq (off : Byte) : Statement (.beq off) := of_bytes rfl (Nat.le_succ 1)
theorem bne (off : Byte) : Statement (.bne off) := of_bytes rfl (Nat.le_succ 1)
theorem bmi (off : Byte) : Statement (.bmi off) := of_bytes rfl (Nat.le_succ 1)
theorem bpl (off : Byte) : Statement (.bpl off) := of_bytes rfl (Nat.le_succ 1)
theorem bvc (off : Byte) : Statement (.bvc off) := of_bytes rfl (Nat.le_succ 1)
theorem bvs (off : Byte) : Statement (.bvs off) := of_bytes rfl (Nat.le_succ 1)
theorem jmp (t : JumpTarget) : Statement (.jmp t) := by cases t <;> exact of_bytes rfl (Nat.le_refl 2)
theorem jsr (w : Addr) : Statement (.jsr w) := of_bytes rfl (Nat.le_refl 2)
theorem rts : Statement (.rts) := of_bytes rfl (Nat.zero_le 2)
theorem pha : Statement (.pha) := of_bytes rfl (Nat.zero_le 2)
theorem pla : Statement (.pla) := of_bytes rfl (Nat.zero_le 2)
theorem php : Statement (.php) := of_bytes rfl (Nat.zero_le 2)
theorem plp : Statement (.plp) := of_bytes rfl (Nat.zero_le 2)
theorem clc : Statement (.clc) := of_bytes rfl (Nat.zero_le 2)
theorem sec : Statement (.sec) := of_bytes rfl (Nat.zero_le 2)
theorem cli : Statement (.cli) := of_bytes rfl (Nat.zero_le 2)
theorem sei : Statement (.sei) := of_bytes rfl (Nat.zero_le 2)
theorem clv : Statement (.clv) := of_bytes rfl (Nat.zero_le 2)
theorem cld : Statement (.cld) := of_bytes rfl (Nat.zero_le 2)
theorem sed : Statement (.sed) := of_bytes rfl (Nat.zero_le 2)
theorem nop : Statement (.nop) := of_bytes rfl (Nat.zero_le 2)
theorem brk : Statement (.brk) := of_bytes rfl (Nat.zero_le 2)
theorem rti : Statement (.rti) := of_bytes rfl (Nat.zero_le 2)
theorem undefined (op : Byte) : Statement (.undefined op) := of_bytes rfl (Nat.zero_le 2)

end Sys2Proof.Laws.EncodedLength
end

