-- ==== Sys2Proof/Laws/Safety.lean ====
section
/-! SUPPORT. Every memory operation keeps the memories canonical and inside their buffers, and the reset state
has them so. -/

namespace Sys2Proof.Machine

variable {s t : State} {a : Addr} {v : Byte}

/-- The reset state's memories list nothing. -/
theorem reset_memoryOk : State.reset.MemoryOk := by
  unfold State.MemoryOk; decide

/-- The memories and the parameters are all that `MemoryOk` looks at. -/
theorem State.MemoryOk.congr (h : s.MemoryOk) (hr : t.ram = s.ram) (hg : t.prg = s.prg) (hc : t.chr = s.chr)
    (hp : t.ppu.patternRam = s.ppu.patternRam) (hq : t.params = s.params) : t.MemoryOk := by
  unfold State.MemoryOk at *
  rw [hr, hg, hc, hp, hq]
  exact h

/-- A write of RAM inside its buffer. -/
theorem State.MemoryOk.writeRam (h : s.MemoryOk) {i : Nat} (hi : i < Config.ramSize) (v : Byte) :
    (s.writeRam i v).MemoryOk :=
  ⟨⟨Memory.wf_write i v h.1.1, Memory.within_write v h.1.2 hi⟩, h.2⟩

/-- A write of PRG memory inside its buffer. -/
theorem State.MemoryOk.writePrg (h : s.MemoryOk) {i : Nat} (hi : i < s.params.prgSize) (v : Byte) :
    (s.writePrg i v).MemoryOk :=
  ⟨h.1, ⟨Memory.wf_write i v h.2.1.1, Memory.within_write v h.2.1.2 hi⟩, h.2.2⟩

/-- A write of CHR memory inside its buffer. -/
theorem State.MemoryOk.writeChr (h : s.MemoryOk) {i : Nat} (hi : i < s.params.chrSize) (v : Byte) :
    (s.writeChr i v).MemoryOk :=
  ⟨h.1, h.2.1, ⟨Memory.wf_write i v h.2.2.1.1, Memory.within_write v h.2.2.1.2 hi⟩, h.2.2.2⟩

/-- A CPU read. -/
theorem State.MemoryOk.noteRead (h : s.MemoryOk) (a : Addr) : (Machine.noteRead s a).MemoryOk :=
  h.congr noteRead_ram noteRead_prg noteRead_chr (by rw [noteRead_ppu]) noteRead_params

/-- The place of an address lies inside its buffer. -/
theorem place_bound (p : Config.Params) (a : Addr) :
    (∀ i, place p a = .ram i → i < Config.ramSize) ∧ (∀ i, place p a = .prg i → i < p.prgSize) := by
  unfold place
  dsimp only
  generalize (if p.prgBanks.val > 1 then a.toNat % 0x8000 else a.toNat % 0x4000) = off
  constructor <;> intro i hi <;> split at hi
  · cases hi; exact Nat.mod_lt _ (by decide)
  · split at hi <;> (try split at hi) <;> (try split at hi) <;> cases hi
  · cases hi
  · split at hi <;> (try split at hi) <;> (try split at hi) <;> cases hi
    assumption

/-- A CPU write, at any address. -/
theorem State.MemoryOk.poke (h : s.MemoryOk) (a : Addr) (v : Byte) : (Machine.poke s a v).MemoryOk := by
  unfold Machine.poke
  split
  · rename_i i hi; exact h.writeRam ((place_bound s.params a).1 i hi) v
  · exact h.congr rfl rfl rfl rfl rfl
  · exact h.congr rfl rfl rfl rfl rfl
  · rename_i i hi; exact h.writePrg ((place_bound s.params a).2 i hi) v
  · exact h

/-- A CPU bus write that completes. -/
theorem State.MemoryOk.cpuBusWrite (h : s.MemoryOk) (hw : Machine.cpuBusWrite a v s = .ok () t) :
    t.MemoryOk := by
  by_cases ha : Accessible s.params a
  · rw [cpuBusWrite_accessible ha] at hw
    cases hw; exact h.poke a v
  · rw [cpuBusWrite_not_accessible ha] at hw; cases hw

/-- A slot of the stack page lies inside RAM. -/
theorem stack_slot_lt (sp : Byte) : 0x100 + sp.toNat < Config.ramSize := by
  have := sp.isLt
  unfold Config.ramSize
  omega

/-- A push. -/
theorem State.MemoryOk.push (h : s.MemoryOk) (hw : Machine.push v s = .ok () t) : t.MemoryOk := by
  rw [push_eq] at hw
  cases hw
  exact State.MemoryOk.writeRam (s := s.setSp (s.sp - 1)) (h.congr rfl rfl rfl rfl rfl)
    (stack_slot_lt _) v

/-- A pop. -/
theorem State.MemoryOk.pop (h : s.MemoryOk) (hw : Machine.pop s = .ok v t) : t.MemoryOk := by
  rw [pop_eq] at hw
  cases hw
  exact (h.writeRam (stack_slot_lt _) 0x00).congr rfl rfl rfl rfl rfl

/-- A PPU-side write. -/
theorem State.MemoryOk.ppuBusWrite (h : s.MemoryOk) (hw : Machine.ppuBusWrite a v s = .ok () t) :
    t.MemoryOk := by
  unfold Machine.ppuBusWrite cartridgePpuWrite at hw
  split at hw
  · split at hw
    · cases hw; exact h
    · split at hw
      · rename_i hlt; cases hw; exact h.writeChr hlt v
      · cases hw
  · cases hw; exact h

end Sys2Proof.Machine
end

