-- ==== Sys2Proof/Tests/Slice0.lean ====
section
/-! SUPPORT. The model's own tests. Expected results come from the spec: the per-mnemonic opcode table of
30_encoding.md R151, the worked examples and vectors of 95_test_vectors.md (T<n>, V<n>), the examples inside the
instruction rules. The last part shows, for every obligation with hypotheses, states and operands that meet
them. -/

namespace Sys2Proof.Tests

open Sys2Proof.Machine
open Host (Outcome)

/-! ## WellFormed refuses every pair of a mnemonic and a mode that R151 leaves blank -/

theorem test_wf_refuses_read_forms :
    (Instr.lda (.zpy 0x10)).wellFormed = false ∧ (Instr.adc (.zpy 0x10)).wellFormed = false ∧
    (Instr.eor (.zpy 0x10)).wellFormed = false := by decide

theorem test_wf_refuses_store_forms :
    (Instr.sta (.imm 0x10)).wellFormed = false ∧ (Instr.sta (.zpy 0x10)).wellFormed = false ∧
    (Instr.stx (.zpx 0x10)).wellFormed = false ∧ (Instr.stx (.absy 0x1234)).wellFormed = false ∧
    (Instr.sty (.zpy 0x10)).wellFormed = false ∧ (Instr.sty (.absx 0x1234)).wellFormed = false := by decide

theorem test_wf_refuses_index_load_forms :
    (Instr.ldx (.zpx 0x10)).wellFormed = false ∧ (Instr.ldx (.absx 0x1234)).wellFormed = false ∧
    (Instr.ldy (.zpy 0x10)).wellFormed = false ∧ (Instr.ldy (.absy 0x1234)).wellFormed = false := by decide

theorem test_wf_refuses_compare_and_bit_forms :
    (Instr.cpx (.zpx 0x10)).wellFormed = false ∧ (Instr.cpy (.absx 0x1234)).wellFormed = false ∧
    (Instr.bit (.imm 0x10)).wellFormed = false ∧ (Instr.bit (.absx 0x1234)).wellFormed = false := by decide

theorem test_wf_refuses_modify_forms :
    (Instr.inc (.imm 0x10)).wellFormed = false ∧ (Instr.dec (.indx 0x10)).wellFormed = false ∧
    (Instr.asl (.mem (.indy 0x10))).wellFormed = false ∧ (Instr.ror (.mem (.absy 0x1234))).wellFormed = false := by
  decide

/-- A byte that R150 defines is not an undefined opcode; R155 lists 105 bytes, none twice. -/
theorem test_wf_undefined_opcodes :
    (Instr.undefined 0x69).wellFormed = false ∧ (Instr.undefined 0x02).wellFormed = true ∧
    undefinedOpcodes.length = 105 ∧ undefinedOpcodes.Nodup := by decide

/-! ## Decoding: every defined word, its opcode byte written from R151, operand bytes 0x5C and 0x9A -/

theorem test_decode_loads_stores_1 :
    (decodeTableWord 16 0b01011100_10101001 = some (.lda (.imm 0x5C))) ∧
    (decodeTableWord 16 0b01011100_10100101 = some (.lda (.zp 0x5C))) ∧
    (decodeTableWord 16 0b01011100_10110101 = some (.lda (.zpx 0x5C))) ∧
    (decodeTableWord 24 0b10011010_01011100_10101101 = some (.lda (.abs 0x9A5C))) ∧
    (decodeTableWord 24 0b10011010_01011100_10111101 = some (.lda (.absx 0x9A5C))) ∧
    (decodeTableWord 24 0b10011010_01011100_10111001 = some (.lda (.absy 0x9A5C))) ∧
    (decodeTableWord 16 0b01011100_10100001 = some (.lda (.indx 0x5C))) ∧
    (decodeTableWord 16 0b01011100_10110001 = some (.lda (.indy 0x5C))) ∧
    (decodeTableWord 16 0b01011100_10100010 = some (.ldx (.imm 0x5C))) ∧
    (decodeTableWord 16 0b01011100_10100110 = some (.ldx (.zp 0x5C))) ∧
    (decodeTableWord 16 0b01011100_10110110 = some (.ldx (.zpy 0x5C))) ∧
    (decodeTableWord 24 0b10011010_01011100_10101110 = some (.ldx (.abs 0x9A5C))) ∧
    (decodeTableWord 24 0b10011010_01011100_10111110 = some (.ldx (.absy 0x9A5C))) ∧
    (decodeTableWord 16 0b01011100_10100000 = some (.ldy (.imm 0x5C))) ∧
    (decodeTableWord 16 0b01011100_10100100 = some (.ldy (.zp 0x5C))) ∧
    (decodeTableWord 16 0b01011100_10110100 = some (.ldy (.zpx 0x5C))) ∧
    (decodeTableWord 24 0b10011010_01011100_10101100 = some (.ldy (.abs 0x9A5C))) ∧
    (decodeTableWord 24 0b10011010_01011100_10111100 = some (.ldy (.absx 0x9A5C))) ∧
    (decodeTableWord 16 0b01011100_10000101 = some (.sta (.zp 0x5C))) ∧
    (decodeTableWord 16 0b01011100_10010101 = some (.sta (.zpx 0x5C))) := by
  decide

theorem test_decode_loads_stores_2 :
    (decodeTableWord 24 0b10011010_01011100_10001101 = some (.sta (.abs 0x9A5C))) ∧
    (decodeTableWord 24 0b10011010_01011100_10011101 = some (.sta (.absx 0x9A5C))) ∧
    (decodeTableWord 24 0b10011010_01011100_10011001 = some (.sta (.absy 0x9A5C))) ∧
    (decodeTableWord 16 0b01011100_10000001 = some (.sta (.indx 0x5C))) ∧
    (decodeTableWord 16 0b01011100_10010001 = some (.sta (.indy 0x5C))) ∧
    (decodeTableWord 16 0b01011100_10000110 = some (.stx (.zp 0x5C))) ∧
    (decodeTableWord 16 0b01011100_10010110 = some (.stx (.zpy 0x5C))) ∧
    (decodeTableWord 24 0b10011010_01011100_10001110 = some (.stx (.abs 0x9A5C))) ∧
    (decodeTableWord 16 0b01011100_10000100 = some (.sty (.zp 0x5C))) ∧
    (decodeTableWord 16 0b01011100_10010100 = some (.sty (.zpx 0x5C))) ∧
    (decodeTableWord 24 0b10011010_01011100_10001100 = some (.sty (.abs 0x9A5C))) := by
  decide

theorem test_decode_transfers :
    (decodeTableWord 8 0b10101010 = some .tax) ∧
    (decodeTableWord 8 0b10101000 = some .tay) ∧
    (decodeTableWord 8 0b10001010 = some .txa) ∧
    (decodeTableWord 8 0b10011000 = some .tya) ∧
    (decodeTableWord 8 0b10111010 = some .tsx) ∧
    (decodeTableWord 8 0b10011010 = some .txs) := by
  decide

theorem test_decode_add_subtract :
    (decodeTableWord 16 0b01011100_01101001 = some (.adc (.imm 0x5C))) ∧
    (decodeTableWord 16 0b01011100_01100101 = some (.adc (.zp 0x5C))) ∧
    (decodeTableWord 16 0b01011100_01110101 = some (.adc (.zpx 0x5C))) ∧
    (decodeTableWord 24 0b10011010_01011100_01101101 = some (.adc (.abs 0x9A5C))) ∧
    (decodeTableWord 24 0b10011010_01011100_01111101 = some (.adc (.absx 0x9A5C))) ∧
    (decodeTableWord 24 0b10011010_01011100_01111001 = some (.adc (.absy 0x9A5C))) ∧
    (decodeTableWord 16 0b01011100_01100001 = some (.adc (.indx 0x5C))) ∧
    (decodeTableWord 16 0b01011100_01110001 = some (.adc (.indy 0x5C))) ∧
    (decodeTableWord 16 0b01011100_11101001 = some (.sbc (.imm 0x5C))) ∧
    (decodeTableWord 16 0b01011100_11100101 = some (.sbc (.zp 0x5C))) ∧
    (decodeTableWord 16 0b01011100_11110101 = some (.sbc (.zpx 0x5C))) ∧
    (decodeTableWord 24 0b10011010_01011100_11101101 = some (.sbc (.abs 0x9A5C))) ∧
    (decodeTableWord 24 0b10011010_01011100_11111101 = some (.sbc (.absx 0x9A5C))) ∧
    (decodeTableWord 24 0b10011010_01011100_11111001 = some (.sbc (.absy 0x9A5C))) ∧
    (decodeTableWord 16 0b01011100_11100001 = some (.sbc (.indx 0x5C))) ∧
    (decodeTableWord 16 0b01011100_11110001 = some (.sbc (.indy 0x5C))) := by
  decide

theorem test_decode_compares :
    (decodeTableWord 16 0b01011100_11001001 = some (.cmp (.imm 0x5C))) ∧
    (decodeTableWord 16 0b01011100_11000101 = some (.cmp (.zp 0x5C))) ∧
    (decodeTableWord 16 0b01011100_11010101 = some (.cmp (.zpx 0x5C))) ∧
    (decodeTableWord 24 0b10011010_01011100_11001101 = some (.cmp (.abs 0x9A5C))) ∧
    (decodeTableWord 24 0b10011010_01011100_11011101 = some (.cmp (.absx 0x9A5C))) ∧
    (decodeTableWord 24 0b10011010_01011100_11011001 = some (.cmp (.absy 0x9A5C))) ∧
    (decodeTableWord 16 0b01011100_11000001 = some (.cmp (.indx 0x5C))) ∧
    (decodeTableWord 16 0b01011100_11010001 = some (.cmp (.indy 0x5C))) ∧
    (decodeTableWord 16 0b01011100_11100000 = some (.cpx (.imm 0x5C))) ∧
    (decodeTableWord 16 0b01011100_11100100 = some (.cpx (.zp 0x5C))) ∧
    (decodeTableWord 24 0b10011010_01011100_11101100 = some (.cpx (.abs 0x9A5C))) ∧
    (decodeTableWord 16 0b01011100_11000000 = some (.cpy (.imm 0x5C))) ∧
    (decodeTableWord 16 0b01011100_11000100 = some (.cpy (.zp 0x5C))) ∧
    (decodeTableWord 24 0b10011010_01011100_11001100 = some (.cpy (.abs 0x9A5C))) := by
  decide

theorem test_decode_increments :
    (decodeTableWord 16 0b01011100_11100110 = some (.inc (.zp 0x5C))) ∧
    (decodeTableWord 16 0b01011100_11110110 = some (.inc (.zpx 0x5C))) ∧
    (decodeTableWord 24 0b10011010_01011100_11101110 = some (.inc (.abs 0x9A5C))) ∧
    (decodeTableWord 24 0b10011010_01011100_11111110 = some (.inc (.absx 0x9A5C))) ∧
    (decodeTableWord 16 0b01011100_11000110 = some (.dec (.zp 0x5C))) ∧
    (decodeTableWord 16 0b01011100_11010110 = some (.dec (.zpx 0x5C))) ∧
    (decodeTableWord 24 0b10011010_01011100_11001110 = some (.dec (.abs 0x9A5C))) ∧
    (decodeTableWord 24 0b10011010_01011100_11011110 = some (.dec (.absx 0x9A5C))) ∧
    (decodeTableWord 8 0b11101000 = some .inx) ∧
    (decodeTableWord 8 0b11001000 = some .iny) ∧
    (decodeTableWord 8 0b11001010 = some .dex) ∧
    (decodeTableWord 8 0b10001000 = some .dey) := by
  decide

theorem test_decode_logic_1 :
    (decodeTableWord 16 0b01011100_00101001 = some (.and (.imm 0x5C))) ∧
    (decodeTableWord 16 0b01011100_00100101 = some (.and (.zp 0x5C))) ∧
    (decodeTableWord 16 0b01011100_00110101 = some (.and (.zpx 0x5C))) ∧
    (decodeTableWord 24 0b10011010_01011100_00101101 = some (.and (.abs 0x9A5C))) ∧
    (decodeTableWord 24 0b10011010_01011100_00111101 = some (.and (.absx 0x9A5C))) ∧
    (decodeTableWord 24 0b10011010_01011100_00111001 = some (.and (.absy 0x9A5C))) ∧
    (decodeTableWord 16 0b01011100_00100001 = some (.and (.indx 0x5C))) ∧
    (decodeTableWord 16 0b01011100_00110001 = some (.and (.indy 0x5C))) ∧
    (decodeTableWord 16 0b01011100_00001001 = some (.ora (.imm 0x5C))) ∧
    (decodeTableWord 16 0b01011100_00000101 = some (.ora (.zp 0x5C))) ∧
    (decodeTableWord 16 0b01011100_00010101 = some (.ora (.zpx 0x5C))) ∧
    (decodeTableWord 24 0b10011010_01011100_00001101 = some (.ora (.abs 0x9A5C))) ∧
    (decodeTableWord 24 0b10011010_01011100_00011101 = some (.ora (.absx 0x9A5C))) ∧
    (decodeTableWord 24 0b10011010_01011100_00011001 = some (.ora (.absy 0x9A5C))) ∧
    (decodeTableWord 16 0b01011100_00000001 = some (.ora (.indx 0x5C))) ∧
    (decodeTableWord 16 0b01011100_00010001 = some (.ora (.indy 0x5C))) ∧
    (decodeTableWord 16 0b01011100_01001001 = some (.eor (.imm 0x5C))) ∧
    (decodeTableWord 16 0b01011100_01000101 = some (.eor (.zp 0x5C))) ∧
    (decodeTableWord 16 0b01011100_01010101 = some (.eor (.zpx 0x5C))) ∧
    (decodeTableWord 24 0b10011010_01011100_01001101 = some (.eor (.abs 0x9A5C))) := by
  decide

theorem test_decode_logic_2 :
    (decodeTableWord 24 0b10011010_01011100_01011101 = some (.eor (.absx 0x9A5C))) ∧
    (decodeTableWord 24 0b10011010_01011100_01011001 = some (.eor (.absy 0x9A5C))) ∧
    (decodeTableWord 16 0b01011100_01000001 = some (.eor (.indx 0x5C))) ∧
    (decodeTableWord 16 0b01011100_01010001 = some (.eor (.indy 0x5C))) ∧
    (decodeTableWord 16 0b01011100_00100100 = some (.bit (.zp 0x5C))) ∧
    (decodeTableWord 24 0b10011010_01011100_00101100 = some (.bit (.abs 0x9A5C))) := by
  decide

theorem test_decode_shifts :
    (decodeTableWord 8 0b00001010 = some (.asl .acc)) ∧
    (decodeTableWord 16 0b01011100_00000110 = some (.asl (.mem (.zp 0x5C)))) ∧
    (decodeTableWord 16 0b01011100_00010110 = some (.asl (.mem (.zpx 0x5C)))) ∧
    (decodeTableWord 24 0b10011010_01011100_00001110 = some (.asl (.mem (.abs 0x9A5C)))) ∧
    (decodeTableWord 24 0b10011010_01011100_00011110 = some (.asl (.mem (.absx 0x9A5C)))) ∧
    (decodeTableWord 8 0b01001010 = some (.lsr .acc)) ∧
    (decodeTableWord 16 0b01011100_01000110 = some (.lsr (.mem (.zp 0x5C)))) ∧
    (decodeTableWord 16 0b01011100_01010110 = some (.lsr (.mem (.zpx 0x5C)))) ∧
    (decodeTableWord 24 0b10011010_01011100_01001110 = some (.lsr (.mem (.abs 0x9A5C)))) ∧
    (decodeTableWord 24 0b10011010_01011100_01011110 = some (.lsr (.mem (.absx 0x9A5C)))) ∧
    (decodeTableWord 8 0b00101010 = some (.rol .acc)) ∧
    (decodeTableWord 16 0b01011100_00100110 = some (.rol (.mem (.zp 0x5C)))) ∧
    (decodeTableWord 16 0b01011100_00110110 = some (.rol (.mem (.zpx 0x5C)))) ∧
    (decodeTableWord 24 0b10011010_01011100_00101110 = some (.rol (.mem (.abs 0x9A5C)))) ∧
    (decodeTableWord 24 0b10011010_01011100_00111110 = some (.rol (.mem (.absx 0x9A5C)))) ∧
    (decodeTableWord 8 0b01101010 = some (.ror .acc)) ∧
    (decodeTableWord 16 0b01011100_01100110 = some (.ror (.mem (.zp 0x5C)))) ∧
    (decodeTableWord 16 0b01011100_01110110 = some (.ror (.mem (.zpx 0x5C)))) ∧
    (decodeTableWord 24 0b10011010_01011100_01101110 = some (.ror (.mem (.abs 0x9A5C)))) ∧
    (decodeTableWord 24 0b10011010_01011100_01111110 = some (.ror (.mem (.absx 0x9A5C)))) := by
  decide

theorem test_decode_branches :
    (decodeTableWord 16 0b01011100_10010000 = some (.bcc 0x5C)) ∧
    (decodeTableWord 16 0b01011100_10110000 = some (.bcs 0x5C)) ∧
    (decodeTableWord 16 0b01011100_11110000 = some (.beq 0x5C)) ∧
    (decodeTableWord 16 0b01011100_11010000 = some (.bne 0x5C)) ∧
    (decodeTableWord 16 0b01011100_00110000 = some (.bmi 0x5C)) ∧
    (decodeTableWord 16 0b01011100_00010000 = some (.bpl 0x5C)) ∧
    (decodeTableWord 16 0b01011100_01010000 = some (.bvc 0x5C)) ∧
    (decodeTableWord 16 0b01011100_01110000 = some (.bvs 0x5C)) := by
  decide

theorem test_decode_jumps :
    (decodeTableWord 24 0b10011010_01011100_01001100 = some (.jmp (.abs 0x9A5C))) ∧
    (decodeTableWord 24 0b10011010_01011100_01101100 = some (.jmp (.ind 0x9A5C))) ∧
    (decodeTableWord 24 0b10011010_01011100_00100000 = some (.jsr 0x9A5C)) ∧
    (decodeTableWord 8 0b01100000 = some .rts) := by
  decide

theorem test_decode_stack :
    (decodeTableWord 8 0b01001000 = some .pha) ∧
    (decodeTableWord 8 0b01101000 = some .pla) ∧
    (decodeTableWord 8 0b00001000 = some .php) ∧
    (decodeTableWord 8 0b00101000 = some .plp) := by
  decide

theorem test_decode_flags_system :
    (decodeTableWord 8 0b00011000 = some .clc) ∧
    (decodeTableWord 8 0b00111000 = some .sec) ∧
    (decodeTableWord 8 0b01011000 = some .cli) ∧
    (decodeTableWord 8 0b01111000 = some .sei) ∧
    (decodeTableWord 8 0b10111000 = some .clv) ∧
    (decodeTableWord 8 0b11011000 = some .cld) ∧
    (decodeTableWord 8 0b11111000 = some .sed) ∧
    (decodeTableWord 8 0b11101010 = some .nop) ∧
    (decodeTableWord 8 0b00000000 = some .brk) ∧
    (decodeTableWord 8 0b01000000 = some .rti) := by
  decide

/-- The undefined opcode bytes are the list of R155, from both sides. -/
theorem test_decode_undefined :
    (∀ op ∈ undefinedOpcodes, decodeTableWord 8 op.toNat = some (.undefined op)) ∧
    (∀ op : Byte, decodeInstr op 0 0 = .undefined op → op ∈ undefinedOpcodes) := by decide

/-- Reserved encodings do not fall through to a neighbour: a missing operand byte is refused by name, an undefined
byte takes no operand. -/
theorem test_decode_refuses_short_words :
    decode [] = .error .noOpcodeByte ∧ decode [0xAD, 0x34] = .error (.missingOperandBytes 0xAD) ∧
    decode [0xA9] = .error (.missingOperandBytes 0xA9) ∧
    decode [0xFF, 0xA9, 0x01] = .ok (.undefined 0xFF, [0xA9, 0x01]) := ⟨rfl, rfl, rfl, rfl⟩

/-! ## One `exec()` on a small state -/

/-- The common start state of 95_test_vectors.md. -/
def start : State := { State.reset with sp := 0xFF, pc := 0x8000 }

/-- Bytes placed from an address on. -/
def load : Addr → List Byte → State → State
  | _, [], s => s
  | a, b :: bs, s => load (a + 1) bs (poke s a b)

/-- Bytes placed at `PC`, then one `exec()`. -/
def ran (code : List Byte) (s : State) : Option State :=
  match execNext (load s.pc code s) with
  | .next t => some t
  | .fault _ | .refused _ => none

/-- Flags in the order of the vectors: N V Z C I. -/
def nvzci (n v z c i : Nat) : Flags :=
  { n := n == 1, v := v == 1, z := z == 1, c := c == 1, i := i == 1 }

/-- V1 rows 4, 7, 8: the indexed modes wrap in page 0 and modulo 65536. -/
theorem test_lda_indexed :
    (ran [0xB5, 0xFF] (load 0x0101 [0x77] (load 0x0001 [0x99] { start with x := 0x02 }))).map
      (fun t => (t.a, t.flags, t.pc)) = some (0x99, nvzci 1 0 0 0 0, 0x8002) ∧
    (ran [0xBD, 0xFF, 0xFF] (load 0x0000 [0x6B] { start with x := 0x01 })).map
      (fun t => (t.a, t.flags, t.pc)) = some (0x6B, nvzci 0 0 0 0 0, 0x8003) ∧
    (ran [0xB9, 0xF0, 0x01] (load 0x0210 [0x0C] { start with y := 0x20 })).map
      (fun t => (t.a, t.remainingCycles)) = some (0x0C, 4) := by decide

/-- V1 rows 9, 10, 11, 12: the indirect modes and their page-0 pointers. -/
theorem test_lda_indirect :
    (ran [0xA1, 0x20] (load 0x0300 [0xC3] (load 0x0024 [0x00, 0x03] { start with x := 0x04 }))).map (·.a) =
      some 0xC3 ∧
    (ran [0xA1, 0x00] (load 0x0210 [0x3C] (load 0x0000 [0x02] (load 0x00FF [0x10] { start with x := 0xFF })))).map
      (·.a) = some 0x3C ∧
    (ran [0xB1, 0x40] (load 0x0308 [0xE1] (load 0x0040 [0xF8, 0x02] { start with y := 0x10 }))).map (·.a) =
      some 0xE1 ∧
    (ran [0xB1, 0xFF] (load 0x0000 [0xFF] (load 0x00FF [0xFF] { start with y := 0x01 }))).map (·.a) =
      some 0xFF := by decide

/-- V1 rows 5 and 3: LDX with ZeroPageY, LDY with ZeroPage (R203's example for the flags). -/
theorem test_ldx_ldy :
    (ran [0xB6, 0xFF] (load 0x000F [0x31] { start with y := 0x10 })).map (fun t => (t.x, t.y, t.pc)) =
      some (0x31, 0x10, 0x8002) ∧
    (ran [0xA0, 0x00] { start with y := 0x55 }).map (fun t => (t.y, t.flags)) =
      some (0x00, nvzci 0 0 1 0 0) := by decide

/-- V1 rows 13 to 16: a RAM mirror, the status register's mirror, an unimplemented register, unmapped space. -/
theorem test_lda_through_the_map :
    (ran [0xAD, 0x23, 0x19] (load 0x0123 [0x77] start)).map (·.a) = some 0x77 ∧
    (ran [0xAD, 0x0A, 0x20] start).map (fun t => (t.a, t.diag.ppuRegUnimplemented)) = some (0x80, false) ∧
    (ran [0xAD, 0x00, 0x20] { start with a := 0x11 }).map (fun t => (t.a, t.diag.ppuRegUnimplemented)) =
      some (0x00, true) ∧
    (ran [0xAD, 0x00, 0x50] { start with a := 0x11 }).map (fun t => (t.a, t.flags.z, t.diag.unmappedRead)) =
      some (0x00, true, true) := by decide

/-- V2 rows 1, 2, 3, 5: STA to page 0 (no flag), through a mirror, IndirectY, into PRG memory. -/
theorem test_sta :
    (ran [0x85, 0x10] { start with a := 0x80, flags := nvzci 0 0 1 0 0 }).map (fun t => (peek t 0x0010, t.flags)) =
      some (0x80, nvzci 0 0 1 0 0) ∧
    (ran [0x9D, 0xF8, 0x07] { start with a := 0x5A, x := 0x10 }).map (fun t => peek t 0x0008) = some 0x5A ∧
    (ran [0x91, 0x20] (load 0x0020 [0xFE, 0x02] { start with a := 0x33, y := 0x02 })).map
      (fun t => peek t 0x0300) = some 0x33 ∧
    (ran [0x8D, 0x00, 0x90] { start with a := 0x12 }).map (fun t => t.prg.read 0x1000) = some 0x12 := by decide

/-- V2 rows 6 and 7: dropped stores. -/
theorem test_sta_dropped :
    (ran [0x8D, 0x00, 0x60] { start with a := 0x12 }).map (fun t => (t.ram, t.diag.unmappedWrite)) =
      some ([], true) ∧
    (ran [0x8D, 0x06, 0x20] { start with a := 0x12 }).map (fun t => (t.ram, t.diag.ppuRegUnimplemented)) =
      some ([], true) := by decide

/-- V2 row 4 and R206's example: STX with ZeroPageY wraps, STY. -/
theorem test_stx_sty :
    (ran [0x96, 0xFF] { start with x := 0x07, y := 0x01 }).map (fun t => peek t 0x0000) = some 0x07 ∧
    (ran [0x84, 0x40] { start with y := 0x22 }).map (fun t => peek t 0x0040) = some 0x22 := by decide

/-- V2 rows 8 to 11 and the examples of R208, R209: the transfers. -/
theorem test_transfers :
    (ran [0xAA] { start with a := 0x80 }).map (fun t => (t.x, t.flags)) = some (0x80, nvzci 1 0 0 0 0) ∧
    (ran [0xA8] { start with a := 0xFF }).map (fun t => (t.y, t.flags)) = some (0xFF, nvzci 1 0 0 0 0) ∧
    (ran [0x8A] { start with x := 0x01 }).map (fun t => (t.a, t.flags)) = some (0x01, nvzci 0 0 0 0 0) ∧
    (ran [0x98] { start with y := 0xFF }).map (fun t => (t.a, t.flags)) = some (0xFF, nvzci 1 0 0 0 0) ∧
    (ran [0xBA] { start with sp := 0x00 }).map (fun t => (t.x, t.flags)) = some (0x00, nvzci 0 0 1 0 0) ∧
    (ran [0x9A] { start with sp := 0x55, flags := nvzci 1 0 0 0 0 }).map (fun t => (t.sp, t.flags)) =
      some (0x00, nvzci 1 0 0 0 0) := by decide

/-- V3, ADC: carry out, overflow by the carry in, two negatives, the full sum. -/
theorem test_adc :
    (ran [0x69, 0xFF] { start with a := 0x01 }).map (fun t => (t.a, t.flags)) = some (0x00, nvzci 0 0 1 1 0) ∧
    (ran [0x69, 0x00] { start with a := 0x7F, flags := nvzci 0 0 0 1 0 }).map (fun t => (t.a, t.flags)) =
      some (0x80, nvzci 1 1 0 0 0) ∧
    (ran [0x69, 0xFF] { start with a := 0x80 }).map (fun t => (t.a, t.flags)) = some (0x7F, nvzci 0 1 0 1 0) ∧
    (ran [0x69, 0xFF] { start with a := 0xFF, flags := nvzci 0 0 0 1 0 }).map (fun t => (t.a, t.flags)) =
      some (0xFF, nvzci 1 0 0 1 0) := by decide

/-- V3, SBC: with and without borrow, signed overflow, borrow out. -/
theorem test_sbc :
    (ran [0xE9, 0x30] { start with a := 0x50 }).map (fun t => (t.a, t.flags)) = some (0x1F, nvzci 0 0 0 1 0) ∧
    (ran [0xE9, 0xB0] { start with a := 0x50, flags := nvzci 0 0 0 1 0 }).map (fun t => (t.a, t.flags)) =
      some (0xA0, nvzci 1 1 0 0 0) ∧
    (ran [0xE9, 0x01] { start with a := 0x80, flags := nvzci 0 0 0 1 0 }).map (fun t => (t.a, t.flags)) =
      some (0x7F, nvzci 0 1 0 1 0) ∧
    (ran [0xE9, 0x00] start).map (fun t => (t.a, t.flags)) = some (0xFF, nvzci 1 0 0 0 0) := by decide

/-- V4 rows 1 to 6: CMP, CPX, CPY. -/
theorem test_compares :
    (ran [0xC9, 0x40] { start with a := 0x40 }).map (·.flags) = some (nvzci 0 0 1 1 0) ∧
    (ran [0xC9, 0x01] { start with a := 0x80 }).map (·.flags) = some (nvzci 0 0 0 1 0) ∧
    (ran [0xC9, 0x80] { start with flags := nvzci 0 1 0 0 0 }).map (·.flags) = some (nvzci 1 1 0 0 0) ∧
    (ran [0xE4, 0x20] (load 0x0020 [0x11] { start with x := 0x10 })).map (·.flags) = some (nvzci 1 0 0 0 0) ∧
    (ran [0xC0, 0x00] { start with y := 0xFF }).map (·.flags) = some (nvzci 1 0 0 1 0) := by decide

/-- V4 rows 7 to 10: INC and DEC, the write to the PPU window dropped after the flags are computed. -/
theorem test_inc_dec :
    (ran [0xE6, 0x10] (load 0x0010 [0xFF] { start with flags := nvzci 0 0 0 1 0 })).map
      (fun t => (peek t 0x0010, t.flags)) = some (0x00, nvzci 0 0 1 1 0) ∧
    (ran [0xC6, 0x10] start).map (fun t => (peek t 0x0010, t.flags)) = some (0xFF, nvzci 1 0 0 0 0) ∧
    (ran [0xF6, 0xFF] (load 0x0001 [0x09] { start with x := 0x02 })).map
      (fun t => (peek t 0x0001, peek t 0x0101)) = some (0x0A, 0x00) ∧
    (ran [0xEE, 0x02, 0x20] start).map (fun t => (t.flags, t.diag.ppuRegUnimplemented)) =
      some (nvzci 1 0 0 0 0, true) := by decide

/-- V4 rows 11, 12 and the examples of R241, R242. -/
theorem test_index_count :
    (ran [0xE8] { start with x := 0xFF }).map (fun t => (t.x, t.flags)) = some (0x00, nvzci 0 0 1 0 0) ∧
    (ran [0xC8] { start with y := 0x7F }).map (fun t => (t.y, t.flags)) = some (0x80, nvzci 1 0 0 0 0) ∧
    (ran [0xCA] start).map (fun t => (t.x, t.flags)) = some (0xFF, nvzci 1 0 0 0 0) ∧
    (ran [0x88] start).map (fun t => (t.y, t.flags)) = some (0xFF, nvzci 1 0 0 0 0) := by decide

/-- V5 rows 1 to 6: AND, ORA, EOR, BIT. -/
theorem test_logic :
    (ran [0x29, 0x0F] { start with a := 0xF0 }).map (fun t => (t.a, t.flags)) = some (0x00, nvzci 0 0 1 0 0) ∧
    (ran [0x09, 0x80] { start with a := 0x0F }).map (fun t => (t.a, t.flags)) = some (0x8F, nvzci 1 0 0 0 0) ∧
    (ran [0x49, 0xFF] { start with a := 0xFF }).map (fun t => (t.a, t.flags)) = some (0x00, nvzci 0 0 1 0 0) ∧
    (ran [0x24, 0x10] (load 0x0010 [0xC0] { start with a := 0x01 })).map (fun t => (t.a, t.flags)) =
      some (0x01, nvzci 1 1 1 0 0) ∧
    (ran [0x2C, 0x02, 0x20] start).map (·.flags) = some (nvzci 1 0 1 0 0) := by decide

/-- V5 rows 7 to 12: shifts and rotates of the accumulator. -/
theorem test_shifts_accumulator :
    (ran [0x0A] { start with a := 0x81 }).map (fun t => (t.a, t.flags)) = some (0x02, nvzci 0 0 0 1 0) ∧
    (ran [0x4A] { start with a := 0x01 }).map (fun t => (t.a, t.flags)) = some (0x00, nvzci 0 0 1 1 0) ∧
    (ran [0x2A] { start with a := 0x80, flags := nvzci 0 0 0 1 0 }).map (fun t => (t.a, t.flags)) =
      some (0x01, nvzci 0 0 0 1 0) ∧
    (ran [0x6A] { start with a := 0x00, flags := nvzci 0 0 0 1 0 }).map (fun t => (t.a, t.flags)) =
      some (0x80, nvzci 1 0 0 0 0) := by decide

/-- V5 rows 13 to 15 and R266's memory example: shifts and rotates of memory. -/
theorem test_shifts_memory :
    (ran [0x06, 0x10] (load 0x0010 [0xC0] start)).map (fun t => (peek t 0x0010, t.flags)) =
      some (0x80, nvzci 1 0 0 1 0) ∧
    (ran [0x5E, 0x00, 0x02] (load 0x0205 [0x03] { start with x := 0x05 })).map
      (fun t => (peek t 0x0205, t.flags)) = some (0x01, nvzci 0 0 0 1 0) ∧
    (ran [0x2E, 0x00, 0x03] (load 0x0300 [0xFF] start)).map (fun t => (peek t 0x0300, t.flags)) =
      some (0xFE, nvzci 1 0 0 1 0) ∧
    (ran [0x66, 0x10] (load 0x0010 [0x02] { start with flags := nvzci 0 0 0 1 0 })).map
      (fun t => (peek t 0x0010, t.flags)) = some (0x81, nvzci 1 0 0 0 0) := by decide

/-- T6, T7, T8 and V6 rows 1, 2, 4 to 7: the branches. -/
theorem test_branches :
    (ran [0x90, 0x04] start).map (·.pc) = some 0x8006 ∧
    (ran [0x90, 0x04] { start with flags := nvzci 0 0 0 1 0 }).map (·.pc) = some 0x8002 ∧
    (ran [0x10, 0xFA] start).map (·.pc) = some 0x7FFC ∧
    (ran [0xF0, 0x7F] { start with flags := nvzci 0 0 1 0 0 }).map (·.pc) = some 0x8081 ∧
    (ran [0xD0, 0x80] start).map (·.pc) = some 0x7F82 ∧
    (ran [0xB0, 0x01] { start with pc := 0xFFFE, flags := nvzci 0 0 0 1 0 }).map (·.pc) = some 0x0001 ∧
    (ran [0x30, 0xFD] { start with flags := nvzci 1 0 0 0 0 }).map (·.pc) = some 0x7FFF ∧
    (ran [0x50, 0x10] { start with flags := nvzci 0 1 0 0 0 }).map (·.pc) = some 0x8002 ∧
    (ran [0x70, 0x10] { start with flags := nvzci 0 1 0 0 0 }).map (·.pc) = some 0x8012 := by decide

/-- V6 rows 9 to 12: JMP absolute and indirect, JSR and RTS wrapping in the stack page. -/
theorem test_jumps :
    (ran [0x4C, 0x34, 0x12] start).map (·.pc) = some 0x1234 ∧
    (ran [0x6C, 0xFF, 0x02] (load 0x0200 [0x99] (load 0x02FF [0x78, 0x56] start))).map (·.pc) = some 0x5678 ∧
    (ran [0x20, 0x00, 0x90] { start with sp := 0x00, pc := 0x80FE }).map
      (fun t => (t.pc, t.sp, peek t 0x01FF, peek t 0x01FE)) = some (0x9000, 0xFE, 0x81, 0x00) ∧
    (ran [0x60] (load 0x01FE [0xFF, 0xFF] { start with sp := 0xFE })).map
      (fun t => (t.pc, t.sp, peek t 0x01FE, peek t 0x01FF)) = some (0x0000, 0x00, 0x00, 0x00) := by decide

/-- V7 rows 1 to 8: PHA, PLA, PHP, PLP. -/
theorem test_stack :
    (ran [0x48] { start with a := 0x42 }).map (fun t => (t.sp, peek t 0x01FE)) = some (0xFE, 0x42) ∧
    (ran [0x68] (load 0x01FE [0x80] { start with sp := 0xFE })).map
      (fun t => (t.a, t.sp, peek t 0x01FE, t.flags)) = some (0x80, 0xFF, 0x00, nvzci 1 0 0 0 0) ∧
    (ran [0x08] { start with flags := nvzci 1 1 1 1 1 }).map (fun t => (t.sp, peek t 0x01FE)) =
      some (0xFE, 0xE3) ∧
    (ran [0x28] (load 0x01FE [0x22] { start with sp := 0xFE })).map (·.flags) =
      some (nvzci 0 1 0 0 1) := by decide

/-- V7 rows 9, 10, 17: the flag instructions, one at a time, CLD, SED and NOP. -/
theorem test_flag_instructions :
    (ran [0x18] { start with flags := nvzci 0 1 0 1 1 }).map (·.flags) = some (nvzci 0 1 0 0 1) ∧
    (ran [0x58] { start with flags := nvzci 0 1 0 1 1 }).map (·.flags) = some (nvzci 0 1 0 1 0) ∧
    (ran [0xB8] { start with flags := nvzci 0 1 0 1 1 }).map (·.flags) = some (nvzci 0 0 0 1 1) ∧
    (ran [0x38] start).map (·.flags) = some (nvzci 0 0 0 1 0) ∧
    (ran [0x78] start).map (·.flags) = some (nvzci 0 0 0 0 1) ∧
    (ran [0xD8] start).map (fun t => (t.flags, t.pc, t.remainingCycles)) = some (nvzci 0 0 0 0 0, 0x8001, 2) ∧
    (ran [0xF8] start).map (fun t => (t.flags, t.pc, t.remainingCycles)) = some (nvzci 0 0 0 0 0, 0x8001, 2) ∧
    (ran [0xEA] start).map (fun t => (t.flags, t.pc, t.remainingCycles)) =
      some (nvzci 0 0 0 0 0, 0x8001, 2) := by decide

/-- V7 row 12: BRK taken. -/
theorem test_brk_taken :
    (ran [0x00] (load 0xFFFE [0x00, 0x90] { start with flags := nvzci 1 0 0 1 0 })).map
      (fun t => ((t.pc, t.sp, t.flags), peek t 0x01FE, peek t 0x01FD, peek t 0x01FC)) =
      some ((0x9000, 0xFC, nvzci 1 0 0 1 0), 0x80, 0x01, 0x81) := by decide

/-- V7 row 13: BRK suppressed. -/
theorem test_brk_suppressed :
    (ran [0x00] (load 0xFFFE [0x00, 0x90] { start with flags := nvzci 0 0 0 0 1 })).map
      (fun t => (t.pc, t.sp, t.ram, t.flags)) = some (0x8001, 0xFF, [], nvzci 0 0 0 0 1) := by decide

/-- V7 row 14: RTI. -/
theorem test_rti :
    (ran [0x40] (load 0x01FC [0x81, 0x01, 0x80] { start with sp := 0xFC })).map
      (fun t => (t.pc, t.sp, t.ram, t.flags)) = some (0x8002, 0xFF, [], nvzci 1 0 0 1 0) := by decide

/-- V7 row 15: an undefined opcode. -/
theorem test_undefined :
    (ran [0x02] { start with a := 0x11 }).map (fun t => (t.a, t.pc, t.diag.illegalOpcode, t.remainingCycles)) =
      some (0x11, 0x8001, true, 0) := by decide

/-- R8, R590: the count is the one that the cycle table has for the opcode byte (0xEA), the default or another;
R591: the smallest and the largest are 1 and 7. -/
theorem test_cycle_table :
    Config.defaultParams.cycleCount 0xEA = 2 ∧ Config.defaultParams.cycleCount 0x00 = 7 ∧
    (ran [0xEA] { start with params := { start.params with cycles := (Vector.replicate 256 0).set 0xEA 6 } }).map
      (·.remainingCycles) = some 7 ∧
    (ran [0x18] { start with params := { start.params with cycles := (Vector.replicate 256 0).set 0xEA 6 } }).map
      (·.remainingCycles) = some 1 := by decide

/-! ## Bus, PPU, clock -/

/-- T2: a reset vector written through the bus, then `init()`; one bank mirrors it. -/
theorem test_init :
    (match init (load 0xFFFC [0x00, 0x80] start) with | .ok _ t => some t.pc | .hardFault _ _ => none) =
      some 0x8000 ∧
    (match init (load 0xBFFC [0x34, 0xC2] { start with params := { start.params with prgBanks := 1 } }) with
      | .ok _ t => some t.pc | .hardFault _ _ => none) = some 0xC234 := by decide

/-- V8: `prg_banks = 0` and a read of 0x8000. -/
theorem test_hard_fault :
    (match cpuBusRead 0x8000 { start with params := { start.params with prgBanks := 0 } } with
      | .ok _ _ => none | .hardFault info t => some (info, t.fault)) =
      some (.prgIndexOutOfBounds 0x8000 0, some (.prgIndexOutOfBounds 0x8000 0)) := by decide

/-- V8, the PPU side: the last byte of character memory, the first address beyond, a write to character ROM. -/
theorem test_ppu_bus :
    (match ppuBusRead 0x1FFF { start with chr := [(0x1FFF, 0x44)] } with
      | .ok v t => some (v, t.diag.ppuUnmappedRead) | .hardFault _ _ => none) = some (0x44, false) ∧
    (match ppuBusRead 0x2000 start with
      | .ok v t => some (v, t.diag.ppuUnmappedRead) | .hardFault _ _ => none) = some (0x00, true) ∧
    (match ppuBusWrite 0x0010 0x55 start with
      | .ok _ t => some t.chr | .hardFault _ _ => none) = some [] := by decide

/-- T13, the transitions at calls 341 and 89342. -/
theorem test_ppu_run :
    (Ppu.run { State.reset.ppu with cycle := 340 }).scanline = 0 ∧
    (let p := Ppu.run { State.reset.ppu with cycle := 340, scanline := 260 }
     (p.cycle, p.scanline, p.frameComplete)) = (0, -1, true) := by decide

/-- V9: the eight pixel values of a row, and the palette index of palette 5. -/
theorem test_pattern_row :
    (List.range 8).map (pixelValue 0xF0 0xCC) = [2, 2, 1, 1, 1, 1, 0, 0] ∧
    tileBase 1 2 3 = 0x1230 ∧ 5 * Config.paletteStride = 20 := by decide

/-- V10, tick 1: `LDX #$FF` runs whole in the first tick. -/
theorem test_step_first_tick :
    (match step (load 0x8000 [0xA2, 0xFF, 0x9A] start) with
      | .next t => some (t.x, t.pc, t.remainingCycles, t.phase, t.ppu.cycle)
      | .fault _ | .refused _ => none) = some (0xFF, 0x8002, 1, 1, 1) := by decide

/-- The instruction that `withFetchWord` stores is the first after reset that `step` runs. -/
theorem test_with_fetch_word :
    (match step (State.reset.withFetchWord 16 0x80A9) with
      | .next t => some (t.a, t.pc, t.flags.n) | .fault _ | .refused _ => none) = some (0x80, 0x0002, true) ∧
    (match step (State.reset.withFetchWord 8 0x4C) with
      | .next t => some t.pc | .fault _ | .refused _ => none) = some 0x0000 ∧
    (match step ({ State.reset with pc := 0x5000, phase := 2, remainingCycles := 3 }.withFetchWord 8 0xE8) with
      | .next t => some (t.x, t.pc) | .fault _ | .refused _ => none) = some (0x01, 0x0001) := by decide

/-! ## States and operands that meet the hypotheses of the obligations -/

/-- One PRG bank. -/
def oneBank : State := { start with params := { start.params with prgBanks := 1 } }

/-- No PRG bank: every address from 0x8000 up raises the hard fault. -/
def noBank : State := { start with pc := 0x0000, params := { start.params with prgBanks := 0 } }

/-- Character RAM of 4096 bytes: the PPU side raises the hard fault from 0x1000 up. -/
def smallChr : State := { start with params := { start.params with chrBanks := 0, chrRamSize := 0x1000 } }

theorem witness_InitSeedsPcFromResetVector :
    0 < start.params.prgBanks.val ∧ 0 < oneBank.params.prgBanks.val := by decide

theorem witness_StoredResetVectorIsLoaded :
    start.prg.wf = true ∧ 0 < start.params.prgBanks.val := by decide

/-- Each clause at the ends of its range. -/
theorem witness_MapperTranslatesCpuAddresses :
    (0x7FFF : Addr).toNat < 0x8000 ∧
    (0x8000 ≤ (0x8000 : Addr).toNat ∧ 0x8000 ≤ (0xFFFF : Addr).toNat ∧ 1 < start.params.prgBanks.val) ∧
    (oneBank.params.prgBanks.val ≤ 1 ∧ noBank.params.prgBanks.val ≤ 1) ∧
    oneBank.params.prgBanks.val = 1 ∧ start.params.prgBanks.val = 2 := by decide

/-- Each clause at the ends of its range. -/
theorem witness_BusReadFollowsPrecedence :
    (0x1FFF : Addr).toNat < 0x2000 ∧
    (0x2000 ≤ (0x2000 : Addr).toNat ∧ (0x3FFF : Addr).toNat < 0x4000) ∧
    (0x4000 ≤ (0x4000 : Addr).toNat ∧ (0x7FFF : Addr).toNat < 0x8000) ∧
    (0x8000 ≤ (0x8000 : Addr).toNat ∧ 1 < start.params.prgBanks.val) ∧
    (0x8000 ≤ (0xFFFF : Addr).toNat ∧ oneBank.params.prgBanks.val = 1) := by decide

/-- Each clause at the ends of its range. -/
theorem witness_BusWriteFollowsPrecedence :
    (0x0000 : Addr).toNat < 0x2000 ∧
    (0x2000 ≤ (0x3FFF : Addr).toNat ∧ (0x3FFF : Addr).toNat < 0x4000) ∧
    (0x4000 ≤ (0x7FFF : Addr).toNat ∧ (0x7FFF : Addr).toNat < 0x8000) ∧
    (0x8000 ≤ (0xFFFF : Addr).toNat ∧ 1 < start.params.prgBanks.val) ∧
    (0x8000 ≤ (0x8000 : Addr).toNat ∧ oneBank.params.prgBanks.val = 1) := by decide

/-- Both ends of the range. -/
theorem witness_NoPrgBankRaisesHardFault :
    noBank.params.prgBanks.val = 0 ∧ 0x8000 ≤ (0x8000 : Addr).toNat ∧ 0x8000 ≤ (0xFFFF : Addr).toNat := by decide

theorem witness_PpuWindowHoldsNoState : (1 : Nat) ≠ 2 ∧ (3 : Nat) ≠ 2 := by decide

/-- Each clause at the ends of its range. -/
theorem witness_PpuBusReachesCharacterMemory :
    ((0x1FFF : Addr).toNat < 0x2000 ∧ (0x1FFF : Addr).toNat < start.params.chrSize) ∧
    ((0x1000 : Addr).toNat < 0x2000 ∧ smallChr.params.chrSize ≤ (0x1000 : Addr).toNat) ∧
    0x2000 ≤ (0x2000 : Addr).toNat ∧
    0 < start.params.chrBanks.val ∧
    ((0x0FFF : Addr).toNat < 0x2000 ∧ smallChr.params.chrBanks.val = 0 ∧
      (0x0FFF : Addr).toNat < smallChr.params.chrSize) ∧
    ((0x1FFF : Addr).toNat < 0x2000 ∧ smallChr.params.chrBanks.val = 0 ∧
      smallChr.params.chrSize ≤ (0x1FFF : Addr).toNat) := by decide

/-- A RAM byte with its last alias, a PRG byte with its mirror, and another place for the frame clause. -/
theorem witness_WriteIsSeenThroughEveryAlias :
    oneBank.ram.wf = true ∧ oneBank.prg.wf = true ∧
    ((0x07FF : Addr).toNat < 0x2000 ∧ (0x1FFF : Addr).toNat < 0x2000 ∧
      (0x07FF : Addr).toNat % 2048 = (0x1FFF : Addr).toNat % 2048) ∧
    (0x8000 ≤ (0x8000 : Addr).toNat ∧ 0 < oneBank.params.prgBanks.val ∧ 0x8000 ≤ (0xC000 : Addr).toNat ∧
      cpuMapRead oneBank.params 0x8000 = cpuMapRead oneBank.params 0xC000) ∧
    place oneBank.params 0x0000 ≠ place oneBank.params 0x07FF := by decide

theorem witness_PushThenPopReturnsTheByte :
    start.ram.wf = true ∧
    place start.params 0x01FF ≠ place start.params (stackAddr (start.sp - 1)) := by decide

theorem witness_DecodeOfEncodeIsTheInstruction :
    (Instr.stx (.zpy 0xFF)).wellFormed = true ∧ (Instr.jmp (.ind 0xFFFF)).wellFormed = true ∧
    (Instr.ror (.mem (.absx 0x0000))).wellFormed = true ∧ (Instr.undefined 0xFF).wellFormed = true := by decide

theorem witness_EncodeOfDecodeIsTheBytes :
    decode [0xBD, 0xFF, 0x80, 0x00] = .ok (.lda (.absx 0x80FF), [0x00]) ∧
    operandBytesOf 0xBD ≤ [(0xFF : Byte), 0x80].length := ⟨rfl, by decide⟩

/-- Operands that are accessible: Immediate, the top of unmapped space without a PRG bank, the top of memory with
one. -/
theorem operands_accessible :
    OperandAccessible (.imm 0x00) noBank ∧ OperandAccessible (.abs 0x7FFF) noBank ∧
    OperandAccessible (.absx 0xFFFF) start ∧ OperandAccessible (.indy 0xFF) start :=
  ⟨trivial, .inl (by decide), .inr (by decide), .inr (by decide)⟩

/-- Addresses that are accessible, at both ends. -/
theorem addresses_accessible :
    Accessible noBank.params (effAddr (.zp 0x00) noBank) ∧
    Accessible noBank.params (effAddr (.abs 0x7FFF) noBank) ∧
    Accessible start.params (effAddr (.abs 0xFFFF) start) := by decide

theorem witness_LoadsReadTheOperand : OperandAccessible (.abs 0x7FFF) noBank := operands_accessible.2.1
theorem witness_StoresWriteTheRegister : Accessible start.params (effAddr (.abs 0xFFFF) start) :=
  addresses_accessible.2.2
theorem witness_AdcSbcUseOneAdder : OperandAccessible (.imm 0x00) noBank := operands_accessible.1
theorem witness_ComparesWriteFlagsOnly : OperandAccessible (.indy 0xFF) start := operands_accessible.2.2.2
theorem witness_IncDecModifyMemory : Accessible noBank.params (effAddr (.abs 0x7FFF) noBank) :=
  addresses_accessible.2.1
theorem witness_LogicCombinesAccumulator : OperandAccessible (.absx 0xFFFF) start := operands_accessible.2.2.1
theorem witness_BitTestsMemory : OperandAccessible (.abs 0x7FFF) noBank := operands_accessible.2.1
theorem witness_ShiftsMoveBitsThroughCarry : Accessible noBank.params (effAddr (.zp 0x00) noBank) :=
  addresses_accessible.1

theorem witness_AdcSbcIntegerLaws :
    OperandAccessible (.imm 0xFF) start ∧ (∃ t, exec (.adc (.imm 0xFF)) start = .next t) ∧
    (∃ t, exec (.sbc (.imm 0xFF)) start = .next t) := ⟨trivial, ⟨_, rfl⟩, ⟨_, rfl⟩⟩

/-- The three accessibility clauses of JMP indirect, the last where the pointer straddles 0x7FFF. -/
theorem witness_JmpReplacesPc :
    (Accessible start.params 0xFFFF ∧ Accessible start.params (0xFFFF + 1)) ∧
    ¬ Accessible noBank.params 0x8000 ∧
    (Accessible noBank.params 0x7FFF ∧ ¬ Accessible noBank.params (0x7FFF + 1)) := by decide

/-- The subroutine has written RAM elsewhere, next to the return bytes. -/
theorem witness_RtsReturnsAfterJsr :
    start.ram.wf = true ∧ ∃ t u : State, exec (.jsr 0x9234) start = .next t ∧ u.ram ≠ t.ram ∧
      u.ram.wf = true ∧ u.sp = t.sp ∧
      ∀ k ∈ [start.sp - 1, start.sp - 2], u.ram.read (0x100 + k.toNat) = t.ram.read (0x100 + k.toNat) :=
  ⟨by decide, _, (poke start 0x01FC 0x55).setSp 0xFD |> fun s => poke (poke s 0x01FE 0x7F) 0x01FD 0xFF,
    rfl, by decide, by decide, by decide, by decide⟩

theorem witness_DecimalAndUndefinedOpcodesHaveNoEffect :
    (0x02 : Byte) ∈ undefinedOpcodes ∧ (0xFF : Byte) ∈ undefinedOpcodes := by decide

theorem witness_BrkTakesTheTrap :
    { start with flags := nvzci 0 0 0 0 1 }.flags.i = true ∧
    (start.flags.i = false ∧ 0 < start.params.prgBanks.val) ∧
    (noBank.flags.i = false ∧ noBank.params.prgBanks.val = 0) := by decide

theorem witness_RtiResumesTwoBytesAfterBrk :
    start.ram.wf = true ∧ start.flags.i = false ∧
    ∃ t u : State, exec .brk start = .next t ∧ u.ram ≠ t.ram ∧ u.ram.wf = true ∧ u.sp = t.sp ∧
      ∀ k ∈ [start.sp - 1, start.sp - 2, start.sp - 3],
        u.ram.read (0x100 + k.toNat) = t.ram.read (0x100 + k.toNat) :=
  ⟨by decide, by decide, _, poke (poke (poke { start with sp := 0xFC } 0x01FE 0x80) 0x01FD 0x00) 0x01FB 0x55,
    rfl, by decide, by decide, by decide, by decide⟩

/-- For each register, an instruction that changes it. -/
theorem witness_RegistersWrittenOnlyByTheirInstructions :
    (∃ t, exec (.lda (.imm 0x01)) start = .next t ∧ t.a ≠ start.a) ∧
    (∃ t, exec .inx start = .next t ∧ t.x ≠ start.x) ∧
    (∃ t, exec .dey start = .next t ∧ t.y ≠ start.y) ∧
    (∃ t, exec .txs start = .next t ∧ t.sp ≠ start.sp) ∧
    (∃ t, exec (.jmp (.abs 0x0000)) start = .next t ∧ t.pc ≠ start.pc) :=
  ⟨⟨_, rfl, by decide⟩, ⟨_, rfl, by decide⟩, ⟨_, rfl, by decide⟩, ⟨_, rfl, by decide⟩, ⟨_, rfl, by decide⟩⟩

/-- For each flag, an instruction that changes it, and one that writes none. -/
theorem witness_FlagsWrittenOnlyByTheirInstructions :
    (∃ t, exec .dex start = .next t ∧ t.flags.n ≠ start.flags.n) ∧
    (∃ t, exec (.bit (.zp 0x10)) start = .next t ∧ t.flags.z ≠ start.flags.z) ∧
    (∃ t, exec .sei start = .next t ∧ t.flags.i ≠ start.flags.i) ∧
    (∃ t, exec (.adc (.imm 0x7F)) { start with a := 0x01 } = .next t ∧ t.flags.v ≠ start.flags.v) ∧
    (∃ t, exec .sec start = .next t ∧ t.flags.c ≠ start.flags.c) ∧
    (∃ t, exec .txs start = .next t) :=
  ⟨⟨_, rfl, by decide⟩, ⟨_, rfl, by decide⟩, ⟨_, rfl, by decide⟩, ⟨_, rfl, by decide⟩, ⟨_, rfl, by decide⟩,
    ⟨_, rfl⟩⟩

theorem witness_InstructionsLeavePpuSideAlone : ∃ t, exec (.sta (.abs 0x2006)) start = .next t := ⟨_, rfl⟩

/-- A form that stores nothing, and a BRK that `I` suppresses. -/
theorem witness_NonStoringInstructionsKeepMemory :
    (∃ t, exec (.ror .acc) start = .next t) ∧
    (∃ t, exec .brk { start with flags := nvzci 0 0 0 0 1 } = .next t) ∧
    { start with flags := nvzci 0 0 0 0 1 }.flags.i = true := ⟨⟨_, rfl⟩, ⟨_, rfl⟩, rfl⟩

theorem witness_StoringInstructionsChangeOneByte :
    (∃ s1 t, ea (.zp 0x10) start = .ok 0x0010 s1 ∧ exec (.sta (.zp 0x10)) start = .next t) ∧
    (∃ t, exec (.asl (.mem (.zp 0x10))) start = .next t) ∧
    place start.params 0x0011 ≠ place start.params 0x0010 :=
  ⟨⟨_, _, rfl, rfl⟩, ⟨_, rfl⟩, by decide⟩

/-- Each stack instruction runs, and an address lies away from all the slots they touch. -/
theorem witness_StackInstructionsChangeTheirSlots :
    (∃ t, exec .pha start = .next t) ∧ (∃ t, exec .pla start = .next t) ∧
    (∃ t, exec (.jsr 0x9000) start = .next t) ∧ (∃ t, exec .rts start = .next t) ∧
    (∃ t, exec .brk start = .next t) ∧ (∃ t, exec .rti start = .next t) ∧
    ∀ k ∈ [start.sp - 3, start.sp - 2, start.sp - 1, start.sp, start.sp + 1, start.sp + 2],
      place start.params 0x0180 ≠ place start.params (stackAddr k) :=
  ⟨⟨_, rfl⟩, ⟨_, rfl⟩, ⟨_, rfl⟩, ⟨_, rfl⟩, ⟨_, rfl⟩, ⟨_, rfl⟩, by decide⟩

theorem witness_BaseCyclesAreTheTable :
    encode .brk = some [0x00] ∧ encode (.sbc (.absx 0xFFFF)) = some [0xFD, 0xFF, 0xFF] := by decide

theorem witness_EveryInstructionCompletes :
    0 < oneBank.params.prgBanks.val ∧ (∀ op, Instr.brk ≠ .undefined op) ∧
    ∃ op, Instr.undefined 0x02 = .undefined op := ⟨by decide, by simp, _, rfl⟩

theorem witness_InaccessibleOperandIsHardFault :
    ¬ Accessible noBank.params (effAddr (.abs 0x8000) noBank) ∧
    ¬ Accessible noBank.params (effAddr (.abs 0xFFFF) noBank) ∧
    (∀ b, Operand.abs 0x8000 ≠ .imm b) := ⟨by decide, by decide, by simp⟩

/-- A three-byte instruction at `PC`, the next step being one that executes. -/
theorem witness_StepRunsTheDecodedInstruction :
    let s := load 0x8000 [0xAD, 0x34, 0x02] start
    s.fault = none ∧ s.phase = 0 ∧ s.remainingCycles = 0 ∧
    decode (bytesAtPc s) = .ok (.lda (.abs 0x0234), []) ∧
    ∀ k < (Instr.lda (.abs 0x0234)).length, Accessible s.params (s.pc + BitVec.ofNat 16 k) :=
  ⟨rfl, rfl, rfl, rfl, by decide⟩

theorem witness_EveryTickRunsThePpuOnce :
    (∃ t, step start = .next t) ∧
    (start.fault = none ∧ { start with phase := 2 }.phase ≠ 0) ∧
    (start.phase = 0 ∧ 0 < { start with remainingCycles := 1 }.remainingCycles) :=
  ⟨⟨_, rfl⟩, by decide, by decide⟩

theorem witness_FaultedBlockTakesNoStep :
    { start with fault := some (.prgIndexOutOfBounds 0x8000 0) }.fault = some (.prgIndexOutOfBounds 0x8000 0) ∧
    let s := { noBank with pc := 0x8000 }
    s.fault = none ∧ s.phase = 0 ∧ s.remainingCycles = 0 ∧ ¬ Accessible s.params s.pc :=
  ⟨rfl, rfl, rfl, rfl, by decide⟩

theorem witness_StoredByteIsFetched :
    start.ram.wf = true ∧ start.prg.wf = true ∧ storable start.params start.pc = true ∧
    ∃ t, cpuBusWrite start.pc 0xEA start = .ok () t := ⟨by decide, by decide, by decide, _, rfl⟩

/-- An instruction of seven cycles, and an undefined opcode. -/
theorem witness_InstructionSpansThreeTicksPerCycle :
    (start.fault = none ∧ start.phase = 0 ∧ start.remainingCycles = 0) ∧
    (∃ t, execNext start = .next t ∧ t.remainingCycles = 7) ∧
    (∃ t, execNext (load 0x8000 [0x02] start) = .next t ∧ t.remainingCycles = 0) :=
  ⟨by decide, ⟨_, rfl, by decide⟩, ⟨_, rfl, by decide⟩⟩

theorem witness_InstructionsIgnoreThePpu : ∃ t, exec (.lda (.abs 0x2002)) start = .next t := ⟨_, rfl⟩

theorem witness_DiagnosticsAreSticky :
    (∃ t, step start = .next t) ∧ (∃ t, hostAct (.busWrite 0x5000 0x01) start = .next t) :=
  ⟨⟨_, rfl⟩, ⟨_, rfl⟩⟩

/-- The ends of both counters' ranges. -/
theorem witness_PpuRunCounts :
    ({ start.ppu with cycle := 339 } : Ppu).InRange ∧
    ({ start.ppu with cycle := 340, scanline := 259 } : Ppu).InRange ∧
    ({ start.ppu with cycle := 340, scanline := 260 } : Ppu).InRange := by
  unfold Ppu.InRange; decide

theorem witness_PatternQueryGivesEveryPixel : 0x2000 ≤ start.params.chrSize := by decide

theorem start_inv : start.Inv := by
  unfold State.Inv State.MemoryOk Ppu.InRange; decide

theorem witness_StepKeepsInvariant : start.Inv ∧ ∃ t, step start = .next t := ⟨start_inv, _, rfl⟩

theorem witness_HostActionsKeepInvariant : start.Inv ∧ ∃ t, hostAct (.push 0x0A) start = .next t :=
  ⟨start_inv, _, rfl⟩

theorem witness_ConsistentBlockNeverStops : Consistent start.params ∧ start.fault = none := by
  unfold Consistent; decide

end Sys2Proof.Tests
end

/-! The NROM mapper and the arbiter's read, range by range of the CPU address (20_memory.md R61 to R65, R96). -/
namespace Sys2Proof.Machine

open Config (Params)

variable {p : Params} {a : Addr} {s : State}

/-! ## The mapper, case by case -/

theorem cpuMapRead_below (h : a.toNat < 0x8000) : cpuMapRead p a = none := by
  rw [cpuMapRead_eq, if_neg (by omega)]

theorem cpuMapRead_multi_bank (h : 0x8000 ≤ a.toNat) (hp : 1 < p.prgBanks.val) :
    cpuMapRead p a = some (a.toNat % 0x8000) := by
  rw [cpuMapRead_eq, if_pos h, if_pos hp]

theorem cpuMapRead_at_most_one_bank (h : 0x8000 ≤ a.toNat) (hp : p.prgBanks.val ≤ 1) :
    cpuMapRead p a = some (a.toNat % 0x4000) := by
  rw [cpuMapRead_eq, if_pos h, if_neg (by omega)]

/-- Settles O4: each clause is one case of the mapper; the last two compare the offsets of 0x8000 and 0xC000,
0 and 0 under the 0x4000 mask, 0 and 0x4000 under the 0x8000 mask. -/
theorem mapperTranslatesCpuAddresses : Obligations.MapperTranslatesCpuAddresses := by
  unfold Obligations.MapperTranslatesCpuAddresses
  intro p a
  refine ⟨cpuMapRead_below, cpuMapRead_multi_bank, cpuMapRead_at_most_one_bank, rfl, fun hp => ?_, fun hp => ?_⟩
  · rw [cpuMapRead_at_most_one_bank (a := 0xC000) (by decide) (by omega),
      cpuMapRead_at_most_one_bank (a := 0x8000) (by decide) (by omega)]
    decide
  · rw [cpuMapRead_multi_bank (a := 0xC000) (by decide) (by omega),
      cpuMapRead_multi_bank (a := 0x8000) (by decide) (by omega)]
    decide

/-! ## The address map below the cartridge (R100) -/

theorem place_ram_range (h : a.toNat < 0x2000) : place p a = .ram (a.toNat % 2048) := by
  rw [place, if_pos h]

theorem place_window_range (h : 0x2000 ≤ a.toNat) (h' : a.toNat < 0x4000) :
    place p a = .window (a.toNat % 8) := by
  rw [place, if_neg (by omega), if_pos h']

theorem place_unmapped_range (h : 0x4000 ≤ a.toNat) (h' : a.toNat < 0x8000) : place p a = .unmapped := by
  rw [place, if_neg (by omega), if_neg (by omega), if_pos h']

/-! ## The arbiter's read, range by range -/

theorem cpuBusRead_ram_range (h : a.toNat < 0x2000) :
    cpuBusRead a s = .ok (s.ram.read (a.toNat % 2048)) s := by
  rw [cpuBusRead_accessible (.inl (by omega)), peek, noteRead, place_ram_range h]

theorem cpuBusRead_window_range (h : 0x2000 ≤ a.toNat) (h' : a.toNat < 0x4000) :
    cpuBusRead a s = ppuCpuRead (a.toNat % 8) s := by
  rw [cpuBusRead_accessible (.inl (by omega)), peek, noteRead, place_window_range h h', ppuCpuRead]
  by_cases hr : a.toNat % 8 = 2
  · simp only [hr, if_true]
  · simp only [hr, if_false]

theorem cpuBusRead_unmapped_range (h : 0x4000 ≤ a.toNat) (h' : a.toNat < 0x8000) :
    cpuBusRead a s = .ok 0x00 (s.note .unmappedRead) := by
  rw [cpuBusRead_accessible (.inl h'), peek, noteRead, place_unmapped_range h h']

theorem cpuBusRead_prg_range (h : 0x8000 ≤ a.toNat) (hp : 0 < s.params.prgBanks.val) :
    cpuBusRead a s =
      .ok (s.prg.read (if s.params.prgBanks.val > 1 then a.toNat % 0x8000 else a.toNat % 0x4000)) s := by
  rw [cpuBusRead_accessible (.inr hp), peek_prg_memory h hp, noteRead_prg_memory h hp]

/-- Settles O5: one range of the address map per clause; the two PRG clauses differ in the mapper's mask. -/
theorem busReadFollowsPrecedence : Obligations.BusReadFollowsPrecedence := by
  unfold Obligations.BusReadFollowsPrecedence
  intro a s
  refine ⟨cpuBusRead_ram_range, cpuBusRead_window_range, cpuBusRead_unmapped_range,
    fun h hp => ?_, fun h hp => ?_⟩
  · rw [cpuBusRead_prg_range h (by omega), if_pos hp]
  · rw [cpuBusRead_prg_range h (by omega), if_neg (by omega)]

end Sys2Proof.Machine

/-! Loads and stores (40_load_store_transfer.md R201 to R206): encodings and effect on an accessible operand. -/
namespace Sys2Proof.Machine

variable {s : State} {o : Operand} {v : Byte} {n : Nat}

/-! ## An instruction that reads or stores an accessible operand completes -/

/-- The completing case of `complete_readOperand`. -/
theorem complete_readOperand_accessible (k : Byte → State → State) (h : OperandAccessible o s) :
    ((readOperand o s).andThen fun m s => .ok () (k m s)).complete n =
      .next ((k (operandByte o s) (noteOperand o s)).setRemaining n) := by
  rw [readOperand_eq h, Access.andThen_ok, Access.complete_ok]

/-- The completing case of `complete_storeOperand`. -/
theorem complete_storeOperand_accessible (h : Accessible s.params (effAddr o s)) :
    (storeOperand o v s).complete n = .next ((poke s (effAddr o s) v).setRemaining n) := by
  rw [storeOperand_eq h, Access.complete_ok]

/-- What LDA, LDX and LDY share, `setReg` being the write of the destination register: `SetZN` starts from the
flags before the read, which leaves them alone. -/
theorem complete_load (setReg : State → Byte → State) (h : OperandAccessible o s) :
    ((readOperand o s).andThen fun m s => .ok () ((setReg s m).setFlags (s.flags.setZN m))).complete n =
      .next (((setReg (noteOperand o s) (operandByte o s)).setFlags
        (s.flags.setZN (operandByte o s))).setRemaining n) := by
  rw [complete_readOperand_accessible (fun m s => (setReg s m).setFlags (s.flags.setZN m)) h,
    noteOperand_flags]

/-! ## The obligations -/

/-- Settles O16: the encodings are rows of R151's table; the three effects are one load into different
registers. -/
theorem loadsReadTheOperand : Obligations.LoadsReadTheOperand := by
  unfold Obligations.LoadsReadTheOperand
  constructor
  · intro b w
    and_intros <;> rfl
  · intro o s h
    exact ⟨complete_load .setA h, complete_load .setX h, complete_load .setY h⟩

/-- Settles O17: the encodings are rows of R151's table; the three effects are one store of different
registers. -/
theorem storesWriteTheRegister : Obligations.StoresWriteTheRegister := by
  unfold Obligations.StoresWriteTheRegister
  constructor
  · intro b w
    and_intros <;> rfl
  · intro o s h
    exact ⟨complete_storeOperand_accessible h, complete_storeOperand_accessible h,
      complete_storeOperand_accessible h⟩

end Sys2Proof.Machine

/-! Arithmetic, compares, increment and decrement (41_arithmetic.md R230 to R239): encodings and effect on an
accessible operand. -/
namespace Sys2Proof.Machine

variable {s : State} {o : Operand} {n : Nat}

/-! ## The adder in integers (R230) -/

theorem bitByte_toNat (b : Bool) : (bitByte b).toNat = if b then 1 else 0 := by
  cases b <;> rfl

/-- The sum with the carry in as an integer. -/
theorem addSum_eq (a m : Byte) (c : Bool) : addSum a m c = a.toNat + m.toNat + (if c then 1 else 0) := by
  rw [addSum, bitByte_toNat]

/-- The result is the sum modulo 256. -/
theorem addResult_eq_mod (a m : Byte) (c : Bool) : addResult a m c = BitVec.ofNat 8 (addSum a m c % 256) :=
  BitVec.eq_of_toNat_eq (by simp [addResult])

/-- Everything the adder writes, in integers. -/
theorem addCore_eq (m : Byte) (s : State) :
    addCore m s =
      let t := s.a.toNat + m.toNat + (if s.flags.c then 1 else 0)
      let r : Byte := BitVec.ofNat 8 (t % 256)
      { s with
        a := r
        flags := { s.flags with
          c := decide (255 < t)
          v := (s.a.getLsbD 7 ^^ r.getLsbD 7) && !(s.a.getLsbD 7 ^^ m.getLsbD 7)
          z := r == 0x00
          n := r.getLsbD 7 } } := by
  rw [addCore, Flags.afterAdd, addResult_eq_mod, addSum_eq]
  rfl

/-! ## Counting a byte up and down (R238, R239) -/

theorem byte_add_one_eq (v : Byte) : v + 1 = BitVec.ofNat 8 ((v.toNat + 1) % 256) :=
  BitVec.eq_of_toNat_eq (by simp)

/-- Counting down is adding 255 modulo 256. -/
theorem byte_sub_one_eq (v : Byte) : v - 1 = BitVec.ofNat 8 ((v.toNat + 255) % 256) := by
  bv_omega

/-! ## What the instructions of one kind share -/

/-- What CMP, CPX and CPY share, `reg` being the register compared, which the read of the operand leaves alone. -/
theorem complete_compare (reg : State → Byte) (hreg : reg (noteOperand o s) = reg s)
    (h : OperandAccessible o s) :
    ((readOperand o s).andThen fun m s => .ok () (s.setFlags (s.flags.afterCompare (reg s) m))).complete n =
      .next (((noteOperand o s).setFlags
        (s.flags.afterCompare (reg s) (operandByte o s))).setRemaining n) := by
  rw [complete_readOperand_accessible (fun m s => s.setFlags (s.flags.afterCompare (reg s) m)) h,
    noteOperand_flags, hreg]

/-- The completing case of `complete_modifyOperand`. -/
theorem complete_modifyOperand_accessible (f : Byte → Flags → Byte × Flags)
    (h : Accessible s.params (effAddr o s)) :
    (modifyOperand o f s).complete n =
      .next (((poke (noteRead s (effAddr o s)) (effAddr o s)
        (f (peek s (effAddr o s)) s.flags).1).setFlags (f (peek s (effAddr o s)) s.flags).2).setRemaining n) := by
  rw [modifyOperand_eq f h, Access.complete_ok]

/-! ## The obligations -/

/-- Settles O19: the encodings are rows of R151's table; both effects are the adder's, on the operand byte and on
its complement, and the adder sees A and the carry as they were before the read. -/
theorem adcSbcUseOneAdder : Obligations.AdcSbcUseOneAdder := by
  unfold Obligations.AdcSbcUseOneAdder
  constructor
  · intro b w
    and_intros <;> rfl
  · intro o s h
    constructor
    · rw [exec, execAdc, complete_readOperand_accessible addCore h, addCore_eq, noteOperand_a, noteOperand_flags]
      rfl
    · have hnot : operandByte o s ^^^ 0xFF = ~~~(operandByte o s) := BitVec.xor_allOnes
      rw [hnot, exec, execSbc, complete_readOperand_accessible (fun m s => addCore (~~~m) s) h, addCore_eq,
        noteOperand_a, noteOperand_flags]
      rfl

/-- Settles O21: the encodings are rows of R151's table; the three effects are one compare of different
registers. -/
theorem comparesWriteFlagsOnly : Obligations.ComparesWriteFlagsOnly := by
  unfold Obligations.ComparesWriteFlagsOnly
  constructor
  · intro b w
    and_intros <;> rfl
  · intro o s h
    exact ⟨complete_compare State.a noteOperand_a h, complete_compare State.x noteOperand_x h,
      complete_compare State.y noteOperand_y h⟩

/-- Settles O22: the encodings are rows of R151's table; both effects are one read-modify-write, whose results
`v + 1` and `v - 1` are the statement's integers modulo 256. -/
theorem incDecModifyMemory : Obligations.IncDecModifyMemory := by
  unfold Obligations.IncDecModifyMemory
  constructor
  · intro b w
    and_intros <;> rfl
  · intro o s h
    simp only [← byte_add_one_eq, ← byte_sub_one_eq]
    exact ⟨complete_modifyOperand_accessible _ h, complete_modifyOperand_accessible _ h⟩

end Sys2Proof.Machine

/-! Bitwise logic and the bit test (42_logic_shift.md R261 to R264): encodings and effect on an accessible operand. -/
namespace Sys2Proof.Machine

variable {s : State} {o : Operand} {n : Nat}

/-! ## What AND, ORA and EOR share -/

/-- One bitwise operation `op` of A and the operand: it sees A and the flags as they were before the read, which
leaves them alone. -/
theorem complete_logic (op : Byte → Byte → Byte) (h : OperandAccessible o s) :
    ((readOperand o s).andThen fun m s =>
      .ok () ((s.setA (op s.a m)).setFlags (s.flags.setZN (op s.a m)))).complete n =
      .next ((((noteOperand o s).setA (op s.a (operandByte o s))).setFlags
        (s.flags.setZN (op s.a (operandByte o s)))).setRemaining n) := by
  rw [complete_readOperand_accessible
    (fun m s => (s.setA (op s.a m)).setFlags (s.flags.setZN (op s.a m))) h, noteOperand_a, noteOperand_flags]

/-! ## The bit test -/

/-- BIT sees A and the flags as they were before the read. -/
theorem execBit_accessible (h : OperandAccessible o s) :
    execBit o s = .next (((noteOperand o s).setFlags
      (s.flags.afterBit s.a (operandByte o s))).setRemaining (baseCycles s.params (.bit o))) := by
  rw [execBit, complete_readOperand_accessible (fun m s => s.setFlags (s.flags.afterBit s.a m)) h,
    noteOperand_a, noteOperand_flags]

/-! ## The obligations -/

/-- Settles O24: the encodings are rows of R151's table; the three effects are one instruction scheme with
different bitwise operations. -/
theorem logicCombinesAccumulator : Obligations.LogicCombinesAccumulator := by
  unfold Obligations.LogicCombinesAccumulator
  constructor
  · intro b w
    and_intros <;> rfl
  · intro o s h
    exact ⟨complete_logic (· &&& ·) h, complete_logic (· ||| ·) h, complete_logic (· ^^^ ·) h⟩

/-- Settles O25: the encodings are rows of R151's table, which has none for the immediate mode; the effect is
BIT's flags from A and the operand byte. -/
theorem bitTestsMemory : Obligations.BitTestsMemory := by
  unfold Obligations.BitTestsMemory
  constructor
  · intro b w
    and_intros <;> rfl
  · intro o s h
    exact execBit_accessible h

end Sys2Proof.Machine

/-! The conditional branches (43_control.md R290 to R298): encodings and effect. -/
namespace Sys2Proof.Machine

/-! ## The signed offset (R10, R290) -/

/-- The 16-bit addition of the sign-extended offset is the integer sum modulo 65536. -/
theorem add_sext16_eq (pc : Addr) (off : Byte) : pc + sext16 off = BitVec.ofInt 16 (pc.toNat + off.toInt) := by
  rw [BitVec.ofInt_add, BitVec.ofInt_natCast, BitVec.ofNat_toNat, BitVec.setWidth_eq, sext16, BitVec.signExtend]

/-! ## What the eight branches share -/

/-- A branch completes, and PC and the cycle counter are all it writes, whichever way its condition goes. -/
theorem complete_branch (cond : Bool) (off : Byte) (s : State) (n : Nat) :
    (branch cond off s).complete n = .next { s with
      pc := if cond then BitVec.ofInt 16 (s.pc.toNat + off.toInt) else s.pc
      remainingCycles := n } := by
  rw [branch, Access.complete_ok, add_sext16_eq]
  cases cond <;> rfl

/-- A branch has one mode, so its opcode and its count do not depend on the offset. -/
theorem baseCycles_branch_default (b : Byte) :
    ∀ f ∈ [Instr.bcc, .bcs, .beq, .bne, .bmi, .bpl, .bvc, .bvs], baseCycles Config.defaultParams (f b) = 2 := by
  intro f hf
  fin_cases hf <;> rfl

/-! ## The obligation -/

/-- Settles O28: the encodings are rows of R151's table; the eight effects are one branch on different
conditions. -/
theorem branchesAddSignedOffset : Obligations.BranchesAddSignedOffset := by
  unfold Obligations.BranchesAddSignedOffset
  constructor
  · intro b
    and_intros <;> rfl
  · intro b s
    exact ⟨complete_branch _ b s _, complete_branch _ b s _, complete_branch _ b s _, complete_branch _ b s _,
      complete_branch _ b s _, complete_branch _ b s _, complete_branch _ b s _, complete_branch _ b s _,
      baseCycles_branch_default b⟩

end Sys2Proof.Machine

/-! One call of the PPU's `run()` (47_ppu_unit.md R402). -/
namespace Sys2Proof.Machine

variable {p : Ppu}

/-! ## `run()`, case by case -/

theorem Ppu.run_within_scanline (hc : p.cycle < 340) : p.run = { p with cycle := p.cycle + 1 } := by
  rw [Ppu.run, Config.cyclesPerScanline, if_neg (by omega)]

theorem Ppu.run_scanline_end (hc : p.cycle = 340) (hs : p.scanline < 260) :
    p.run = { p with cycle := 0, scanline := p.scanline + 1 } := by
  rw [Ppu.run, Config.cyclesPerScanline, if_pos (by omega), if_neg (by omega)]

theorem Ppu.run_frame_end (hc : p.cycle = 340) (hs : p.scanline = 260) :
    p.run = { p with cycle := 0, scanline := -1, frameComplete := true } := by
  rw [Ppu.run, Config.cyclesPerScanline, if_pos (by omega), if_pos (by omega)]

/-! ## What `run()` keeps -/

theorem Ppu.run_palette : p.run.palette = p.palette := by
  unfold Ppu.run
  split_ifs <;> rfl

theorem Ppu.run_patternRam : p.run.patternRam = p.patternRam := by
  unfold Ppu.run
  split_ifs <;> rfl

/-- The counters stay in range: from counters in range, one of the three cases applies. -/
theorem Ppu.InRange.run (h : p.InRange) : p.run.InRange := by
  obtain ⟨hcycle, hlow, hhigh⟩ := h
  rcases Nat.lt_or_eq_of_le hcycle with hc | hc
  · rw [Ppu.run_within_scanline hc]
    exact ⟨hc, hlow, hhigh⟩
  rcases Int.lt_or_eq_of_le hhigh with hs | hs
  · rw [Ppu.run_scanline_end hc hs]
    exact ⟨Nat.zero_le _, Int.le_add_one hlow, hs⟩
  · rw [Ppu.run_frame_end hc hs]
    exact ⟨Nat.zero_le _, le_rfl, show (-1 : Int) ≤ 260 by decide⟩

/-- Settles O54: the three cases of `run()`, and what each of them keeps. -/
theorem ppuRunCounts : Obligations.PpuRunCounts := by
  unfold Obligations.PpuRunCounts
  intro p h
  exact ⟨h.run, Ppu.run_palette, Ppu.run_patternRam, Ppu.run_within_scanline, Ppu.run_scanline_end,
    Ppu.run_frame_end⟩

end Sys2Proof.Machine

/-! The reset vector and `init()` (60_exceptions.md R562). -/
namespace Sys2Proof.Machine

/-- With a PRG bank both bytes of the vector lie in PRG memory, so the read succeeds without a diagnostic and
`init()` is one write of PC. -/
theorem init_prg_memory {s : State} (hp : 0 < s.params.prgBanks.val) :
    init s = .ok () (s.setPc (peek16 s Config.resetVector)) := by
  rw [init, memRead16_prg_memory (by decide) (by decide) hp, Access.andThen_ok]

/-- Settles O2: the word at the reset vector is the bytes at 0xFFFC and 0xFFFD, and PC is the only field
written. -/
theorem initSeedsPcFromResetVector : Obligations.InitSeedsPcFromResetVector := by
  unfold Obligations.InitSeedsPcFromResetVector
  intro s hp
  exact init_prg_memory hp

end Sys2Proof.Machine

/-! The decoder and the encoder are inverse to each other (30_encoding.md R121, R123, R150, R151, R155). -/
namespace Sys2Proof.Machine

/-! ## Every well-formed instruction stands in the opcode map -/

/-- The opcode map gives the instruction at its opcode byte, from its operand bytes, a missing one being 0. -/
def InMap (i : Instr) : Prop :=
  ∃ op, i.opcode = some op ∧ decodeInstr op (i.bytes.getD 0 0) (i.bytes.getD 1 0) = i

/-- A form with a 16-bit operand word, whose entry of the map assembles the word from its two bytes. -/
theorem inMap_wide {op : Byte} {i : Instr} {w : Addr} (hop : i.opcode = some op)
    (hbytes : i.bytes = [lo8 w, hi8 w]) (hmap : ∀ h l, w = word h l → decodeInstr op l h = i) : InMap i :=
  ⟨op, hop, by rw [hbytes]; exact hmap _ _ (word_hi8_lo8 w).symm⟩

/-- An undefined opcode byte stands at its own entry. -/
theorem decodeInstr_undefined : ∀ op ∈ undefinedOpcodes, decodeInstr op 0 0 = .undefined op := by decide

/-- The 56 mnemonics in the modes of R151, and the 105 undefined bytes. -/
theorem inMap_of_wellFormed {i : Instr} (h : i.wellFormed = true) : InMap i := by
  cases i
  case lda o | adc o | sbc o | cmp o | and o | ora o | eor o =>
    cases o
    case zpy => cases h
    case abs w | absx w | absy w => exact inMap_wide rfl rfl fun _ _ hw => by subst hw; rfl
    all_goals exact ⟨_, rfl, rfl⟩
  case sta o =>
    cases o
    case imm | zpy => cases h
    case abs w | absx w | absy w => exact inMap_wide rfl rfl fun _ _ hw => by subst hw; rfl
    all_goals exact ⟨_, rfl, rfl⟩
  case ldx o =>
    cases o
    case zpx | absx | indx | indy => cases h
    case abs w | absy w => exact inMap_wide rfl rfl fun _ _ hw => by subst hw; rfl
    all_goals exact ⟨_, rfl, rfl⟩
  case ldy o =>
    cases o
    case zpy | absy | indx | indy => cases h
    case abs w | absx w => exact inMap_wide rfl rfl fun _ _ hw => by subst hw; rfl
    all_goals exact ⟨_, rfl, rfl⟩
  case stx o =>
    cases o
    case imm | zpx | absx | absy | indx | indy => cases h
    case abs w => exact inMap_wide rfl rfl fun _ _ hw => by subst hw; rfl
    all_goals exact ⟨_, rfl, rfl⟩
  case sty o =>
    cases o
    case imm | zpy | absx | absy | indx | indy => cases h
    case abs w => exact inMap_wide rfl rfl fun _ _ hw => by subst hw; rfl
    all_goals exact ⟨_, rfl, rfl⟩
  case cpx o | cpy o =>
    cases o
    case zpx | zpy | absx | absy | indx | indy => cases h
    case abs w => exact inMap_wide rfl rfl fun _ _ hw => by subst hw; rfl
    all_goals exact ⟨_, rfl, rfl⟩
  case bit o =>
    cases o
    case imm | zpx | zpy | absx | absy | indx | indy => cases h
    case abs w => exact inMap_wide rfl rfl fun _ _ hw => by subst hw; rfl
    case zp => exact ⟨_, rfl, rfl⟩
  case inc o | dec o =>
    cases o
    case imm | zpy | absy | indx | indy => cases h
    case abs w | absx w => exact inMap_wide rfl rfl fun _ _ hw => by subst hw; rfl
    all_goals exact ⟨_, rfl, rfl⟩
  case asl o | lsr o | rol o | ror o =>
    cases o with
    | acc => exact ⟨_, rfl, rfl⟩
    | mem o =>
      cases o
      case imm | zpy | absy | indx | indy => cases h
      case abs w | absx w => exact inMap_wide rfl rfl fun _ _ hw => by subst hw; rfl
      all_goals exact ⟨_, rfl, rfl⟩
  case jmp j =>
    cases j
    case abs w | ind w => exact inMap_wide rfl rfl fun _ _ hw => by subst hw; rfl
  case jsr w => exact inMap_wide rfl rfl fun _ _ hw => by subst hw; rfl
  case undefined op =>
    have hop : undefinedOpcodes.contains op = true := h
    exact ⟨op, if_pos hop, decodeInstr_undefined op (List.contains_iff_mem.mp hop)⟩
  all_goals exact ⟨_, rfl, rfl⟩

/-! ## Decoding an encoding -/

/-- Decoding an opcode byte and the operand bytes that it calls for gives the map's entry; a byte it does not call
for counts as 0. -/
theorem decode_operandBytes (op : Byte) (bs rest : List Byte) (h : bs.length = operandBytesOf op) :
    decode (op :: bs ++ rest) = .ok (decodeInstr op (bs.getD 0 0) (bs.getD 1 0), rest) := by
  have hle := operandBytesOf_le op
  match bs, h with
  | [], h => exact decode_none h.symm rest
  | [b1], h => exact decode_one h.symm b1 rest
  | [b1, b2], h => exact decode_two h.symm b1 b2 rest
  | _ :: _ :: _ :: _, h => simp only [List.length_cons] at h; omega

/-- Settles O14: a well-formed instruction is the map's entry at its opcode byte, and every entry's operand bytes are
as many as the opcode byte calls for, which is as many as decoding takes. -/
theorem decodeOfEncodeIsTheInstruction : Obligations.DecodeOfEncodeIsTheInstruction := by
  unfold Obligations.DecodeOfEncodeIsTheInstruction
  intro i rest hi
  obtain ⟨op, hop, hmap⟩ := inMap_of_wellFormed hi
  have hencode : encode i = some (op :: i.bytes) := by rw [encode, hop]; rfl
  obtain ⟨-, hcount, hback⟩ := decodeInstr_encodes op (i.bytes.getD 0 0) (i.bytes.getD 1 0)
  rw [hmap] at hcount hback
  have hbytes : i.bytes.length = operandBytesOf op := by
    have htake := List.cons.inj (Option.some.inj (hencode.symm.trans hback))
    have hle := operandBytesOf_le op
    rw [htake.2, List.length_take]
    exact Nat.min_eq_left hle
  refine ⟨op :: i.bytes, hencode, ?_, ?_⟩
  · rw [List.length_cons, hbytes, Instr.length, hcount, Nat.add_comm]
  · rw [decode_operandBytes op i.bytes rest hbytes, hmap]

/-! ## Encoding what was decoded -/

/-- Decoding takes an opcode byte and the operand bytes that it calls for, and gives the map's entry. -/
theorem decode_ok {bs rest : List Byte} {i : Instr} (h : decode bs = .ok (i, rest)) :
    ∃ op b1 b2, i = decodeInstr op b1 b2 ∧ bs = op :: [b1, b2].take (operandBytesOf op) ++ rest := by
  match bs with
  | [] => cases h
  | op :: bs =>
    have hle := operandBytesOf_le op
    obtain h0 | h1 | h2 : operandBytesOf op = 0 ∨ operandBytesOf op = 1 ∨ operandBytesOf op = 2 := by omega
    · rw [decode_none h0] at h
      cases h
      exact ⟨op, 0, 0, rfl, by rw [h0]; rfl⟩
    · match bs with
      | [] => simp [decode, h1] at h
      | b1 :: bs =>
        rw [decode_one h1] at h
        cases h
        exact ⟨op, b1, 0, rfl, by rw [h1]; rfl⟩
    · match bs with
      | [] | [_] => simp [decode, h2] at h
      | b1 :: b2 :: bs =>
        rw [decode_two h2] at h
        cases h
        exact ⟨op, b1, b2, rfl, by rw [h2]; rfl⟩

/-- Settles O15: what is decoded is an entry of the map, and every entry encodes back to the bytes that decoding
took; with the operand bytes there, decoding succeeds, whatever they are. -/
theorem encodeOfDecodeIsTheBytes : Obligations.EncodeOfDecodeIsTheBytes := by
  unfold Obligations.EncodeOfDecodeIsTheBytes
  constructor
  · intro bs rest i h
    obtain ⟨op, b1, b2, rfl, rfl⟩ := decode_ok h
    obtain ⟨hwf, -, hback⟩ := decodeInstr_encodes op b1 b2
    exact ⟨hwf, _, hback, rfl⟩
  · intro op rest
    constructor
    · rintro ⟨i, r, h⟩
      obtain ⟨op', b1, b2, -, hbytes⟩ := decode_ok h
      rw [List.cons_append] at hbytes
      obtain ⟨rfl, rfl⟩ := List.cons.inj hbytes
      have hle := operandBytesOf_le op
      simp only [List.length_append, List.length_take, List.length_cons, List.length_nil]
      omega
    · intro hlen
      have hdecode := decode_operandBytes op (rest.take (operandBytesOf op)) (rest.drop (operandBytesOf op))
        (by rw [List.length_take, Nat.min_eq_left hlen])
      rw [List.cons_append, List.take_append_drop] at hdecode
      exact ⟨_, _, hdecode⟩

/-! ## Samples of the map -/

/-- Settles O13: each word is an evaluation of the decoder on fixed bytes. -/
theorem sampleWordsDecode : Obligations.SampleWordsDecode := by
  unfold Obligations.SampleWordsDecode
  and_intros <;> rfl

end Sys2Proof.Machine

/-! What each instruction does, said once for all of them: which addresses it needs (`Runs`) and the state it leaves
(`effect`, and the cycle count `cyclesAfter`), tied to `exec` by `exec_eq`, `exec_stops` and `exec_next`. -/
namespace Sys2Proof.Machine

open Host (Outcome)

variable {s t : State} {a b : Addr} {o : Operand} {v : Byte} {n : Nat} {i : Instr}

/-! ## The stack as state changes (R23, R26, R27) -/

/-- The state after a push. -/
def pushed (v : Byte) (s : State) : State := (s.setSp (s.sp - 1)).writeRam (0x100 + (s.sp - 1).toNat) v

/-- The byte that a pop gives. -/
def stackTop (s : State) : Byte := s.ram.read (0x100 + s.sp.toNat)

/-- The state after a pop: the slot read is zeroed. -/
def popped (s : State) : State := (s.writeRam (0x100 + s.sp.toNat) 0x00).setSp (s.sp + 1)

/-- The state after a return address is popped. -/
def poppedPc (s : State) : State := (popped (popped s)).setPc (word (stackTop (popped s)) (stackTop s) + 1)

/-- The state after the trap's three pushes, before its vector is read (R511). -/
def trapFrame (s : State) : State := pushed s.flags.pack (pushed (lo8 s.pc) (pushed (hi8 s.pc) s))

theorem push_eq_pushed (v : Byte) (s : State) : push v s = .ok () (pushed v s) := push_eq v s

theorem pop_eq_popped (s : State) : pop s = .ok (stackTop s) (popped s) := pop_eq s

theorem popPc_eq_poppedPc (s : State) : popPc s = .ok () (poppedPc s) := by
  rw [popPc, pop_eq_popped, Access.andThen_ok, pop_eq_popped, Access.andThen_ok, poppedPc]

theorem returnFromTrap_eq_popped (s : State) :
    returnFromTrap s = .ok () (poppedPc ((popped s).setFlags (.unpack (stackTop s)))) := by
  rw [returnFromTrap, pop_eq_popped, Access.andThen_ok, popPc_eq_poppedPc]

theorem takeTrap_eq_trapFrame (s : State) :
    takeTrap s = (memRead16 Config.brkVector (trapFrame s)).andThen fun v s => .ok () (s.setPc v) := by
  simp only [takeTrap, push_eq_pushed, Access.andThen_ok]
  rfl

/-- A push is a write at the slot's address. -/
theorem pushed_eq_poke : pushed v s = poke (s.setSp (s.sp - 1)) (stackAddr (s.sp - 1)) v :=
  (poke_stack _ _ _).symm

/-- A pop is a write at the slot's address. -/
theorem popped_eq_poke : popped s = (poke s (stackAddr s.sp) 0x00).setSp (s.sp + 1) := by
  rw [poke_stack, popped]

/-- With a PRG bank the trap is taken, PC coming from PRG memory, which no push writes. -/
theorem takeTrap_eq (hp : 0 < s.params.prgBanks.val) :
    takeTrap s = .ok () ((trapFrame s).setPc (peek16 s Config.brkVector)) := by
  have hpeek : ∀ a : Addr, 0x8000 ≤ a.toNat → peek (trapFrame s) a = peek s a := fun a ha => by
    rw [peek_prg_memory (s := s) ha hp]
    exact peek_prg_memory ha hp
  rw [takeTrap_eq_trapFrame, memRead16_prg_memory (s := trapFrame s) (by decide) (by decide) hp, Access.andThen_ok,
    peek16, peek16, hpeek _ (by decide), hpeek _ (by decide)]

/-! ## What an instruction needs, and what it does -/

/-- Every address that the instruction accesses is accessible. -/
def Runs : Instr → State → Prop
  | .lda o, s | .ldx o, s | .ldy o, s | .adc o, s | .sbc o, s | .cmp o, s | .cpx o, s | .cpy o, s | .and o, s
  | .ora o, s | .eor o, s | .bit o, s => OperandAccessible o s
  | .sta o, s | .stx o, s | .sty o, s | .inc o, s | .dec o, s | .asl (.mem o), s | .lsr (.mem o), s
  | .rol (.mem o), s | .ror (.mem o), s => Accessible s.params (effAddr o s)
  | .jmp (.ind w), s => Accessible s.params w ∧ Accessible s.params (w + 1)
  | .brk, s => s.flags.i = true ∨ 0 < s.params.prgBanks.val
  | _, _ => True

/-- The read-modify-write of an accessible address, the result and the flags being those of `f`. -/
def modified (f : Byte → Flags → Byte × Flags) (o : Operand) (s : State) : State :=
  let a := effAddr o s
  (poke (noteRead s a) a (f (peek s a) s.flags).1).setFlags (f (peek s a) s.flags).2

/-- The shift or rotate of the accumulator or of memory. -/
def shifted (f : Byte → Flags → Byte × Flags) : ShiftOperand → State → State
  | .acc, s => (s.setA (f s.a s.flags).1).setFlags (f s.a s.flags).2
  | .mem o, s => modified f o s

/-- A branch, taken when `cond` holds. -/
def branched (cond : Bool) (off : Byte) (s : State) : State := if cond then s.setPc (s.pc + sext16 off) else s

/-- The state that an instruction leaves when no access of it faults, its cycle count apart. `m` is the operand byte
and `u` the state after it is read, which differs from `s` in DIAG alone. -/
def effect (i : Instr) (s : State) : State :=
  match i with
  | .lda o => let m := operandByte o s; let u := noteOperand o s; (u.setA m).setFlags (u.flags.setZN m)
  | .ldx o => let m := operandByte o s; let u := noteOperand o s; (u.setX m).setFlags (u.flags.setZN m)
  | .ldy o => let m := operandByte o s; let u := noteOperand o s; (u.setY m).setFlags (u.flags.setZN m)
  | .sta o => poke s (effAddr o s) s.a
  | .stx o => poke s (effAddr o s) s.x
  | .sty o => poke s (effAddr o s) s.y
  | .tax => (s.setX s.a).setFlags (s.flags.setZN s.a)
  | .tay => (s.setY s.a).setFlags (s.flags.setZN s.a)
  | .txa => (s.setA s.x).setFlags (s.flags.setZN s.x)
  | .tya => (s.setA s.y).setFlags (s.flags.setZN s.y)
  | .tsx => (s.setX s.sp).setFlags (s.flags.setZN s.sp)
  | .txs => s.setSp s.x
  | .adc o => addCore (operandByte o s) (noteOperand o s)
  | .sbc o => addCore (~~~(operandByte o s)) (noteOperand o s)
  | .cmp o => let u := noteOperand o s; u.setFlags (u.flags.afterCompare u.a (operandByte o s))
  | .cpx o => let u := noteOperand o s; u.setFlags (u.flags.afterCompare u.x (operandByte o s))
  | .cpy o => let u := noteOperand o s; u.setFlags (u.flags.afterCompare u.y (operandByte o s))
  | .inc o => modified (fun v f => (v + 1, f.setZN (v + 1))) o s
  | .dec o => modified (fun v f => (v - 1, f.setZN (v - 1))) o s
  | .inx => (s.setX (s.x + 1)).setFlags (s.flags.setZN (s.x + 1))
  | .iny => (s.setY (s.y + 1)).setFlags (s.flags.setZN (s.y + 1))
  | .dex => (s.setX (s.x - 1)).setFlags (s.flags.setZN (s.x - 1))
  | .dey => (s.setY (s.y - 1)).setFlags (s.flags.setZN (s.y - 1))
  | .and o => let u := noteOperand o s; let r := u.a &&& operandByte o s; (u.setA r).setFlags (u.flags.setZN r)
  | .ora o => let u := noteOperand o s; let r := u.a ||| operandByte o s; (u.setA r).setFlags (u.flags.setZN r)
  | .eor o => let u := noteOperand o s; let r := u.a ^^^ operandByte o s; (u.setA r).setFlags (u.flags.setZN r)
  | .bit o => let u := noteOperand o s; u.setFlags (u.flags.afterBit u.a (operandByte o s))
  | .asl o => shifted (fun v f => (aslResult v, f.afterLeft v (aslResult v))) o s
  | .lsr o => shifted (fun v f => (lsrResult v, f.afterRight v (lsrResult v))) o s
  | .rol o => shifted (fun v f => (rolResult v f.c, f.afterLeft v (rolResult v f.c))) o s
  | .ror o => shifted (fun v f => (rorResult v f.c, f.afterRight v (rorResult v f.c))) o s
  | .bcc off => branched (!s.flags.c) off s
  | .bcs off => branched s.flags.c off s
  | .beq off => branched s.flags.z off s
  | .bne off => branched (!s.flags.z) off s
  | .bmi off => branched s.flags.n off s
  | .bpl off => branched (!s.flags.n) off s
  | .bvc off => branched (!s.flags.v) off s
  | .bvs off => branched s.flags.v off s
  | .jmp (.abs w) => s.setPc w
  | .jmp (.ind w) => (noteRead (noteRead s w) (w + 1)).setPc (peek16 s w)
  | .jsr w => (pushed (lo8 (s.pc - 1)) (pushed (hi8 (s.pc - 1)) s)).setPc w
  | .rts => poppedPc s
  | .pha => pushed s.a s
  | .pla => ((popped s).setA (stackTop s)).setFlags (s.flags.setZN (stackTop s))
  | .php => pushed s.flags.pack s
  | .plp => (popped s).setFlags (.unpack (stackTop s))
  | .clc => s.setFlags { s.flags with c := false }
  | .sec => s.setFlags { s.flags with c := true }
  | .cli => s.setFlags { s.flags with i := false }
  | .sei => s.setFlags { s.flags with i := true }
  | .clv => s.setFlags { s.flags with v := false }
  | .cld | .sed | .nop => s
  | .brk => if s.flags.i then s else (trapFrame s).setPc (peek16 s Config.brkVector)
  | .rti => poppedPc ((popped s).setFlags (.unpack (stackTop s)))
  | .undefined _ => s.note .illegalOpcode

/-- `remaining_cycles` after an instruction: its base count, which an undefined opcode does not write (R340). -/
def cyclesAfter (i : Instr) (s : State) : Nat :=
  match i with
  | .undefined _ => s.remainingCycles
  | i => baseCycles s.params i

/-! ## Operands -/

/-- The completing case of `complete_modifyShift_mem`. -/
theorem complete_modifyShift_accessible (f : Byte → Flags → Byte × Flags)
    (h : Accessible s.params (effAddr o s)) :
    (modifyShift (.mem o) f s).complete n = .next ((modified f o s).setRemaining n) :=
  complete_modifyOperand_accessible f h

/-- The hard fault that an access to an address outside PRG memory raises: `FAULT` is set and nothing else changes. -/
def prgFault (a : Addr) (s : State) : Fault :=
  .hardFault (.prgIndexOutOfBounds a (a.toNat % 0x4000)) (s.setFault (.prgIndexOutOfBounds a (a.toNat % 0x4000)))

theorem complete_readOperand_not_accessible (k : Byte → State → Access Unit) (h : ¬ OperandAccessible o s) :
    ((readOperand o s).andThen k).complete n = .fault (prgFault (effAddr o s) s) := by
  rw [readOperand_not_accessible h, Access.andThen_raise, Access.complete_raise, prgFault]

theorem complete_storeOperand_not_accessible (h : ¬ Accessible s.params (effAddr o s)) :
    (storeOperand o v s).complete n = .fault (prgFault (effAddr o s) s) := by
  rw [storeOperand, ea_eq, Access.andThen_ok, cpuBusWrite_not_accessible h, Access.complete_raise, prgFault]

theorem complete_modifyOperand_not_accessible (f : Byte → Flags → Byte × Flags)
    (h : ¬ Accessible s.params (effAddr o s)) :
    (modifyOperand o f s).complete n = .fault (prgFault (effAddr o s) s) := by
  rw [modifyOperand, ea_eq, Access.andThen_ok, cpuBusRead_not_accessible h, Access.andThen_raise,
    Access.complete_raise, prgFault]

theorem complete_modifyShift_not_accessible (f : Byte → Flags → Byte × Flags)
    (h : ¬ Accessible s.params (effAddr o s)) :
    (modifyShift (.mem o) f s).complete n = .fault (prgFault (effAddr o s) s) :=
  complete_modifyOperand_not_accessible f h

/-! ## 16-bit reads that are not accessible -/

theorem not_accessible_of_no_prgBank {p : Config.Params} (hp : p.prgBanks.val = 0) (h : 0x8000 ≤ a.toNat) :
    ¬ Accessible p a := by
  rintro (hlt | hbank)
  · exact absurd h hlt.not_ge
  · exact absurd hp hbank.ne'

theorem memRead16_low_not_accessible (h : ¬ Accessible s.params a) :
    memRead16 a s = .raise (.prgIndexOutOfBounds a (a.toNat % 0x4000)) s := by
  rw [memRead16, cpuBusRead_not_accessible h, Access.andThen_raise]

/-- The fault of the high byte comes after the low byte's read. -/
theorem memRead16_high_not_accessible (h1 : Accessible s.params a) (h2 : ¬ Accessible s.params (a + 1)) :
    memRead16 a s = .raise (.prgIndexOutOfBounds (a + 1) ((a + 1).toNat % 0x4000)) (noteRead s a) := by
  rw [memRead16, cpuBusRead_accessible h1, Access.andThen_ok,
    cpuBusRead_not_accessible (by rwa [noteRead_params]), Access.andThen_raise]

/-! ## `exec` -/

/-- JMP indirect, where both bytes of the pointer are accessible. -/
theorem execJmp_ind_eq {w : Addr} (h1 : Accessible s.params w) (h2 : Accessible s.params (w + 1)) :
    execJmp (.ind w) s = .next (((noteRead (noteRead s w) (w + 1)).setPc (peek16 s w)).setRemaining
      (baseCycles s.params (.jmp (.ind w)))) := by
  rw [execJmp, jumpTarget, memRead16_eq h1 h2, Access.andThen_ok, Access.complete_ok]

/-- JMP indirect, where the pointer's low byte is not accessible. -/
theorem execJmp_ind_low_not_accessible {w : Addr} (h : ¬ Accessible s.params w) :
    execJmp (.ind w) s = .fault (prgFault w s) := by
  rw [execJmp, jumpTarget, memRead16_low_not_accessible h, Access.andThen_raise, Access.complete_raise, prgFault]

/-- JMP indirect, where the pointer's high byte alone is not accessible. -/
theorem execJmp_ind_high_not_accessible {w : Addr} (h1 : Accessible s.params w)
    (h2 : ¬ Accessible s.params (w + 1)) :
    execJmp (.ind w) s = .fault (prgFault (w + 1) (noteRead s w)) := by
  rw [execJmp, jumpTarget, memRead16_high_not_accessible h1 h2, Access.andThen_raise, Access.complete_raise,
    prgFault]

theorem execBrk_suppressed (h : s.flags.i = true) : execBrk s = .next (s.setRemaining (baseCycles s.params .brk)) := by
  rw [execBrk, if_pos h, Access.complete_ok]

theorem execBrk_taken (h : s.flags.i = false) (hp : 0 < s.params.prgBanks.val) :
    execBrk s = .next (((trapFrame s).setPc (peek16 s Config.brkVector)).setRemaining (baseCycles s.params .brk)) := by
  rw [execBrk, if_neg (by simp [h]), takeTrap_eq hp, Access.complete_ok]

/-- Without a PRG bank the trap's vector cannot be read: the pushes are made and the fault is raised. -/
theorem execBrk_no_vector (h : s.flags.i = false) (hp : s.params.prgBanks.val = 0) :
    execBrk s = .fault (prgFault Config.brkVector (trapFrame s)) := by
  have hvector : ¬ Accessible (trapFrame s).params Config.brkVector :=
    not_accessible_of_no_prgBank hp (by decide)
  rw [execBrk, if_neg (by simp [h]), takeTrap_eq_trapFrame, memRead16_low_not_accessible hvector,
    Access.andThen_raise, Access.complete_raise, prgFault]

/-- An instruction whose addresses are all accessible completes with its effect and its cycle count. -/
theorem exec_eq (h : Runs i s) : exec i s = .next ((effect i s).setRemaining (cyclesAfter i s)) := by
  cases i
  case lda o | ldx o | ldy o | adc o | sbc o | cmp o | cpx o | cpy o | and o | ora o | eor o | bit o =>
    exact complete_readOperand_accessible _ h
  case sta o | stx o | sty o => exact complete_storeOperand_accessible h
  case inc o | dec o => exact complete_modifyOperand_accessible _ h
  case asl o | lsr o | rol o | ror o =>
    cases o with
    | acc => rfl
    | mem o => exact complete_modifyShift_accessible _ h
  case jmp j =>
    cases j with
    | abs w => rfl
    | ind w => exact execJmp_ind_eq h.1 h.2
  case jsr w => simp only [exec, execJsr, push_eq_pushed, Access.andThen_ok, Access.complete_ok]; rfl
  case pha | php => simp only [exec, execPha, execPhp, push_eq_pushed, Access.complete_ok]; rfl
  case pla | plp => simp only [exec, execPla, execPlp, pop_eq_popped, Access.andThen_ok, Access.complete_ok]; rfl
  case rts => rw [exec, execRts, popPc_eq_poppedPc, Access.complete_ok]; rfl
  case rti => rw [exec, execRti, returnFromTrap_eq_popped, Access.complete_ok]; rfl
  case brk =>
    cases hi : s.flags.i with
    | true => rw [exec, execBrk_suppressed hi, effect, if_pos hi]; rfl
    | false =>
      have hp : 0 < s.params.prgBanks.val := h.resolve_left (by simp [hi])
      rw [exec, execBrk_taken hi hp, effect, if_neg (by simp [hi])]; rfl
  all_goals rfl

/-- An instruction that needs an address which is not accessible stops. -/
theorem exec_stops (h : ¬ Runs i s) : ∃ f, exec i s = .fault f := by
  cases i
  case lda o | ldx o | ldy o | adc o | sbc o | cmp o | cpx o | cpy o | and o | ora o | eor o | bit o =>
    exact ⟨_, complete_readOperand_not_accessible _ h⟩
  case sta o | stx o | sty o => exact ⟨_, complete_storeOperand_not_accessible h⟩
  case inc o | dec o => exact ⟨_, complete_modifyOperand_not_accessible _ h⟩
  case asl o | lsr o | rol o | ror o =>
    cases o with
    | acc => exact absurd trivial h
    | mem o => exact ⟨_, complete_modifyShift_not_accessible _ h⟩
  case jmp j =>
    cases j with
    | abs w => exact absurd trivial h
    | ind w =>
      by_cases h1 : Accessible s.params w
      · exact ⟨_, execJmp_ind_high_not_accessible h1 fun h2 => h ⟨h1, h2⟩⟩
      · exact ⟨_, execJmp_ind_low_not_accessible h1⟩
  case brk =>
    obtain ⟨hi, hp⟩ := not_or.mp h
    exact ⟨_, execBrk_no_vector (by simpa using hi) (by omega)⟩
  all_goals exact absurd trivial h

/-- What it means that an instruction gave a next state. -/
theorem exec_next (h : exec i s = .next t) : Runs i s ∧ t = (effect i s).setRemaining (cyclesAfter i s) := by
  by_cases hr : Runs i s
  · rw [exec_eq hr] at h
    exact ⟨hr, (Outcome.next.inj h).symm⟩
  · obtain ⟨f, hf⟩ := exec_stops hr
    rw [hf] at h
    cases h

/-- No instruction is refused. -/
theorem exec_ne_refused {r : Refusal} : exec i s ≠ .refused r := by
  intro h
  by_cases hr : Runs i s
  · rw [exec_eq hr] at h
    cases h
  · obtain ⟨f, hf⟩ := exec_stops hr
    rw [hf] at h
    cases h

/-- With a PRG bank every address is accessible. -/
theorem accessible_of_prgBank {p : Config.Params} (hp : 0 < p.prgBanks.val) (a : Addr) : Accessible p a := .inr hp

/-- With a PRG bank every instruction has what it needs. -/
theorem runs_of_prgBank (hp : 0 < s.params.prgBanks.val) : Runs i s := by
  cases i
  case lda o | ldx o | ldy o | adc o | sbc o | cmp o | cpx o | cpy o | and o | ora o | eor o | bit o =>
    cases o
    case imm => trivial
    all_goals exact accessible_of_prgBank hp _
  case sta o | stx o | sty o | inc o | dec o => exact accessible_of_prgBank hp _
  case asl o | lsr o | rol o | ror o =>
    cases o with
    | acc => trivial
    | mem o => exact accessible_of_prgBank hp _
  case jmp j =>
    cases j with
    | abs w => trivial
    | ind w => exact ⟨accessible_of_prgBank hp _, accessible_of_prgBank hp _⟩
  case brk => exact .inr hp
  all_goals trivial

theorem cyclesAfter_of_defined (h : ∀ op, i ≠ .undefined op) : cyclesAfter i s = baseCycles s.params i := by
  cases i
  case undefined op => exact absurd rfl (h op)
  all_goals rfl

theorem cyclesAfter_le (h : s.remainingCycles ≤ 7) : cyclesAfter i s ≤ 7 := by
  by_cases hi : ∃ op, i = .undefined op
  · obtain ⟨op, rfl⟩ := hi
    exact h
  · rw [cyclesAfter_of_defined (not_exists.mp hi)]
    exact baseCycles_le _ _

/-- Settles O44: with a PRG bank every instruction has what it needs, so it completes. -/
theorem everyInstructionCompletes : Obligations.EveryInstructionCompletes := by
  unfold Obligations.EveryInstructionCompletes
  intro i s hp
  refine ⟨_, exec_eq (runs_of_prgBank hp), fun hi => cyclesAfter_of_defined hi, ?_⟩
  rintro ⟨op, rfl⟩
  rfl

/-- Settles O46: an operand that is not accessible faults on the first access to it, which every instruction with
a memory operand makes before it changes anything. -/
theorem inaccessibleOperandIsHardFault : Obligations.InaccessibleOperandIsHardFault := by
  unfold Obligations.InaccessibleOperandIsHardFault
  intro o s h
  refine ⟨fun himm f hf => ?_, fun f hf => ?_, fun f hf => ?_⟩
  · have ho : ¬ OperandAccessible o s := by
      cases o
      case imm b => exact absurd rfl (himm b)
      all_goals exact h
    fin_cases hf <;> exact complete_readOperand_not_accessible _ ho
  · fin_cases hf
    · exact complete_storeOperand_not_accessible h
    · exact complete_storeOperand_not_accessible h
    · exact complete_storeOperand_not_accessible h
    · exact complete_modifyOperand_not_accessible _ h
    · exact complete_modifyOperand_not_accessible _ h
  · fin_cases hf <;> exact complete_modifyShift_not_accessible _ h

end Sys2Proof.Machine

/-! What instructions leave alone (10_state.md R21 to R24, R30; 20_memory.md R92). -/
namespace Sys2Proof.Machine

variable {s t u : State} {a b : Addr} {o : Operand} {v : Byte} {n : Nat} {i : Instr}

/-! ## Registers and flags -/

/-- Settles O38: the registers of each instruction's effect. -/
theorem registersWrittenOnlyByTheirInstructions : Obligations.RegistersWrittenOnlyByTheirInstructions := by
  unfold Obligations.RegistersWrittenOnlyByTheirInstructions
  intro i s t h
  obtain ⟨-, rfl⟩ := exec_next h
  cases i
  case asl o | lsr o | rol o | ror o => cases o <;> simp [effect, shifted, modified]
  case jmp j => cases j <;> simp [effect]
  case bcc | bcs | beq | bne | bmi | bpl | bvc | bvs =>
    simp only [effect, branched]
    split_ifs <;> simp
  case brk =>
    simp only [effect]
    split_ifs <;> simp [trapFrame, pushed]
  all_goals simp [effect, addCore, modified, pushed, popped, poppedPc]

/-- Settles O39: the flags of each instruction's effect. -/
theorem flagsWrittenOnlyByTheirInstructions : Obligations.FlagsWrittenOnlyByTheirInstructions := by
  unfold Obligations.FlagsWrittenOnlyByTheirInstructions
  intro i s t h
  obtain ⟨-, rfl⟩ := exec_next h
  cases i
  case asl o | lsr o | rol o | ror o =>
    cases o <;> simp [effect, shifted, modified, Flags.afterLeft, Flags.afterRight, Flags.setZN]
  case jmp j => cases j <;> simp [effect]
  case bcc | bcs | beq | bne | bmi | bpl | bvc | bvs =>
    simp only [effect, branched]
    split_ifs <;> simp
  case brk =>
    simp only [effect]
    split_ifs <;> simp [trapFrame, pushed]
  case adc | sbc => simp [effect, addCore, Flags.afterAdd, Flags.setZN]
  case cmp | cpx | cpy | bit => simp [effect, Flags.afterCompare, Flags.afterBit]
  all_goals simp [effect, modified, pushed, popped, poppedPc, Flags.setZN]

/-! ## Bytes of memory -/

theorem peek_pushed_other (h : place s.params b ≠ place s.params (stackAddr (s.sp - 1))) :
    peek (pushed v s) b = peek s b := by
  rw [pushed_eq_poke]
  exact peek_poke_other (s := s.setSp (s.sp - 1)) h

theorem peek_popped_other (h : place s.params b ≠ place s.params (stackAddr s.sp)) :
    peek (popped s) b = peek s b := by
  rw [popped_eq_poke]
  exact peek_poke_other h

theorem peek_poppedPc_other (h1 : place s.params b ≠ place s.params (stackAddr s.sp))
    (h2 : place s.params b ≠ place s.params (stackAddr (s.sp + 1))) : peek (poppedPc s) b = peek s b :=
  (peek_popped_other (s := popped s) h2).trans (peek_popped_other h1)

theorem peek_modified_other (f : Byte → Flags → Byte × Flags)
    (h : place s.params b ≠ place s.params (effAddr o s)) : peek (modified f o s) b = peek s b := by
  have hpoke : peek (poke (noteRead s (effAddr o s)) (effAddr o s) (f (peek s (effAddr o s)) s.flags).1) b =
      peek (noteRead s (effAddr o s)) b := peek_poke_other (by rwa [noteRead_params])
  exact hpoke.trans peek_noteRead

/-- The byte in view after an instruction is the one after its effect. -/
theorem peek_setRemaining : peek (s.setRemaining n) b = peek s b := rfl

/-- Settles O41: the effects of the forms that store nothing write neither RAM nor PRG memory. -/
theorem nonStoringInstructionsKeepMemory : Obligations.NonStoringInstructionsKeepMemory := by
  unfold Obligations.NonStoringInstructionsKeepMemory
  intro i s t h hstore hjsr hrts hpha hpla hphp hplp hrti hbrk b
  obtain ⟨-, rfl⟩ := exec_next h
  rw [peek_setRemaining]
  cases i
  case sta o | stx o | sty o | inc o | dec o => simpa using hstore o
  case asl o | lsr o | rol o | ror o =>
    cases o with
    | acc => rfl
    | mem o => simpa using hstore o
  case jsr w => exact absurd rfl (hjsr w)
  case rts => exact absurd rfl hrts
  case pha => exact absurd rfl hpha
  case pla => exact absurd rfl hpla
  case php => exact absurd rfl hphp
  case plp => exact absurd rfl hplp
  case rti => exact absurd rfl hrti
  case brk => rw [effect, if_pos (hbrk rfl)]
  case jmp j =>
    cases j with
    | abs w => rfl
    | ind w => exact peek_noteRead.trans peek_noteRead
  case bcc | bcs | beq | bne | bmi | bpl | bvc | bvs =>
    rw [effect, branched]
    split_ifs <;> rfl
  case lda | ldx | ldy | adc | sbc | cmp | cpx | cpy | and | ora | eor | bit =>
    exact peek_congr noteOperand_ram noteOperand_prg noteOperand_params b
  all_goals rfl

/-- Settles O42: a store is one write at the effective address, and a read-modify-write reads first, which changes
no byte. -/
theorem storingInstructionsChangeOneByte : Obligations.StoringInstructionsChangeOneByte := by
  unfold Obligations.StoringInstructionsChangeOneByte
  intro o a i s s1 t hea hi h b hb
  obtain ⟨-, rfl⟩ := exec_next h
  rw [ea_eq] at hea
  cases hea
  rw [peek_setRemaining]
  rcases hi with rfl | rfl | rfl | rfl | rfl | rfl | rfl | rfl | rfl
  case inl | inr.inl | inr.inr.inl => exact peek_poke_other hb
  all_goals exact peek_modified_other _ hb

/-- Settles O43: each effect is a chain of pushes or of pops, each of which writes one slot. -/
theorem stackInstructionsChangeTheirSlots : Obligations.StackInstructionsChangeTheirSlots := by
  unfold Obligations.StackInstructionsChangeTheirSlots
  intro s t b
  have hsub2 : s.sp - 2 = s.sp - 1 - 1 := by bv_omega
  have hsub3 : s.sp - 3 = s.sp - 1 - 1 - 1 := by bv_omega
  have hadd2 : s.sp + 2 = s.sp + 1 + 1 := by bv_omega
  rw [hsub2, hsub3, hadd2]
  have htwo : ∀ v w, place s.params b ≠ place s.params (stackAddr (s.sp - 1)) →
      place s.params b ≠ place s.params (stackAddr (s.sp - 1 - 1)) → peek (pushed w (pushed v s)) b = peek s b :=
    fun v w h1 h2 => (peek_pushed_other (s := pushed v s) h2).trans (peek_pushed_other h1)
  refine ⟨fun h h1 => ?_, fun h h1 => ?_, fun ⟨w, h⟩ h1 h2 => ?_, fun h h1 h2 => ?_, fun h h1 h2 h3 => ?_,
    fun h h1 h2 h3 => ?_⟩
  · rcases h with h | h <;> obtain ⟨-, rfl⟩ := exec_next h <;> exact peek_pushed_other h1
  · rcases h with h | h <;> obtain ⟨-, rfl⟩ := exec_next h <;> exact peek_popped_other h1
  · obtain ⟨-, rfl⟩ := exec_next h
    exact htwo _ _ h1 h2
  · obtain ⟨-, rfl⟩ := exec_next h
    exact peek_poppedPc_other (s := s) h1 h2
  · obtain ⟨-, rfl⟩ := exec_next h
    rw [peek_setRemaining, effect]
    split_ifs
    · rfl
    · exact (peek_pushed_other (s := pushed (lo8 s.pc) (pushed (hi8 s.pc) s)) h3).trans (htwo _ _ h1 h2)
  · obtain ⟨-, rfl⟩ := exec_next h
    exact (peek_poppedPc_other (s := (popped s).setFlags (.unpack (stackTop s))) h2 h3).trans (peek_popped_other h1)

/-! ## Everything that no instruction touches, and what every instruction keeps -/

theorem Diag.le_refl (d : Diag) : d.le d := ⟨id, id, id, id, id⟩

theorem Diag.le.trans {d e f : Diag} (h1 : d.le e) (h2 : e.le f) : d.le f := by
  obtain ⟨a1, a2, a3, a4, a5⟩ := h1
  obtain ⟨b1, b2, b3, b4, b5⟩ := h2
  exact ⟨b1 ∘ a1, b2 ∘ a2, b3 ∘ a3, b4 ∘ a4, b5 ∘ a5⟩

theorem Diag.le_mark (d : Diag) (k : DiagKind) : d.le (d.mark k) := by
  cases k <;> simp [Diag.le, Diag.mark]

/-- What the CPU's operations keep: the fields outside the CPU's reach, every diagnostic mark, canonical memories, and
a cycle count of at most 7. -/
structure Evolves (s t : State) : Prop where
  chr : t.chr = s.chr
  ppu : t.ppu = s.ppu
  phase : t.phase = s.phase
  params : t.params = s.params
  fault : t.fault = s.fault
  diag : s.diag.le t.diag
  memoryOk : s.MemoryOk → t.MemoryOk
  cycles : s.remainingCycles ≤ 7 → t.remainingCycles ≤ 7

namespace Evolves

theorem refl (s : State) : Evolves s s := ⟨rfl, rfl, rfl, rfl, rfl, Diag.le_refl _, id, id⟩

theorem trans (h1 : Evolves s t) (h2 : Evolves t u) : Evolves s u where
  chr := h2.chr.trans h1.chr
  ppu := h2.ppu.trans h1.ppu
  phase := h2.phase.trans h1.phase
  params := h2.params.trans h1.params
  fault := h2.fault.trans h1.fault
  diag := h1.diag.trans h2.diag
  memoryOk := h2.memoryOk ∘ h1.memoryOk
  cycles := h2.cycles ∘ h1.cycles

/-- The CPU's registers and flags may take any value. -/
theorem registers (h : Evolves s t) (a x y sp : Byte) (pc : Addr) (f : Flags) :
    Evolves s { t with a := a, x := x, y := y, sp := sp, pc := pc, flags := f } :=
  { h with memoryOk := fun hs => (h.memoryOk hs).congr rfl rfl rfl rfl rfl }

theorem setRemaining (h : Evolves s t) (hn : s.remainingCycles ≤ 7 → n ≤ 7) : Evolves s (t.setRemaining n) :=
  { h with memoryOk := fun hs => (h.memoryOk hs).congr rfl rfl rfl rfl rfl, cycles := hn }

theorem note (h : Evolves s t) (k : DiagKind) : Evolves s (t.note k) :=
  { h with diag := h.diag.trans (Diag.le_mark _ k),
           memoryOk := fun hs => (h.memoryOk hs).congr rfl rfl rfl rfl rfl }

theorem noteRead (h : Evolves s t) (a : Addr) : Evolves s (Machine.noteRead t a) := by
  unfold Machine.noteRead
  split
  case h_2 => split_ifs; exacts [h, h.note _]
  case h_3 => exact h.note _
  all_goals exact h

theorem poke (h : Evolves s t) (a : Addr) (v : Byte) : Evolves s (Machine.poke t a v) where
  chr := poke_chr.trans h.chr
  ppu := poke_ppu.trans h.ppu
  phase := poke_phase.trans h.phase
  params := poke_params.trans h.params
  fault := poke_fault.trans h.fault
  diag := by
    unfold Machine.poke
    split
    case h_2 | h_3 => exact h.diag.trans (Diag.le_mark _ _)
    all_goals exact h.diag
  memoryOk := fun hs => (h.memoryOk hs).poke a v
  cycles := fun hs => by rw [poke_remainingCycles]; exact h.cycles hs

theorem noteOperand (h : Evolves s t) (o : Operand) : Evolves s (Machine.noteOperand o t) := by
  cases o
  case imm => exact h
  all_goals exact h.noteRead _

theorem pushed (h : Evolves s t) (v : Byte) : Evolves s (Machine.pushed v t) := by
  rw [pushed_eq_poke]
  exact (h.registers t.a t.x t.y (t.sp - 1) t.pc t.flags).poke _ v

theorem popped (h : Evolves s t) : Evolves s (Machine.popped t) := by
  rw [popped_eq_poke]
  exact (h.poke _ _).registers _ _ _ _ _ _

theorem poppedPc (h : Evolves s t) : Evolves s (Machine.poppedPc t) :=
  h.popped.popped.registers _ _ _ _ _ _

theorem modified (h : Evolves s t) (f : Byte → Flags → Byte × Flags) (o : Operand) :
    Evolves s (Machine.modified f o t) :=
  ((h.noteRead _).poke _ _).registers _ _ _ _ _ _

theorem shifted (h : Evolves s t) (f : Byte → Flags → Byte × Flags) (o : ShiftOperand) :
    Evolves s (Machine.shifted f o t) := by
  cases o with
  | acc => exact h.registers _ _ _ _ _ _
  | mem o => exact h.modified f o

/-- Every instruction's effect. -/
theorem effect (i : Instr) (s : State) : Evolves s (Machine.effect i s) := by
  have h := Evolves.refl s
  cases i
  case lda o | ldx o | ldy o | adc o | sbc o | cmp o | cpx o | cpy o | and o | ora o | eor o | bit o =>
    exact (h.noteOperand o).registers _ _ _ _ _ _
  case sta | stx | sty => exact h.poke _ _
  case inc o | dec o => unfold Machine.effect; exact h.modified _ o
  case asl o | lsr o | rol o | ror o => unfold Machine.effect; exact h.shifted _ o
  case bcc | bcs | beq | bne | bmi | bpl | bvc | bvs =>
    rw [Machine.effect, branched]
    split_ifs
    · exact h.registers _ _ _ _ _ _
    · exact h
  case jmp j =>
    cases j with
    | abs w => exact h.registers _ _ _ _ _ _
    | ind w => exact ((h.noteRead _).noteRead _).registers _ _ _ _ _ _
  case jsr => exact ((h.pushed _).pushed _).registers _ _ _ _ _ _
  case rts => exact h.poppedPc
  case pha | php => exact h.pushed _
  case pla | plp => exact h.popped.registers _ _ _ _ _ _
  case brk =>
    rw [Machine.effect]
    split_ifs
    · exact h
    · exact (((h.pushed _).pushed _).pushed _).registers _ _ _ _ _ _
  case rti => exact (h.popped.registers _ _ _ _ _ _).poppedPc
  case undefined => exact h.note _
  case cld | sed | nop => exact h
  all_goals exact h.registers _ _ _ _ _ _

/-- Every instruction. -/
theorem exec (h : Machine.exec i s = .next t) : Evolves s t := by
  obtain ⟨-, rfl⟩ := exec_next h
  exact (Evolves.effect i s).setRemaining cyclesAfter_le

end Evolves

/-- Settles O40: the PPU's side is outside the reach of every effect. -/
theorem instructionsLeavePpuSideAlone : Obligations.InstructionsLeavePpuSideAlone := by
  unfold Obligations.InstructionsLeavePpuSideAlone
  intro i s t h
  have hs := Evolves.exec h
  exact ⟨hs.chr, hs.ppu, hs.phase, hs.params, hs.fault⟩

end Sys2Proof.Machine

/-! The step: fetching, `exec()`, `clock()` and `tick()`, case by case (70_reset_and_hazards.md R570 to R574), and what
every step and every host action keeps. -/
namespace Sys2Proof.Machine

open Host (Outcome)

variable {s t u : State} {a b : Addr} {o : Operand} {v : Byte} {n : Nat} {i : Instr}

/-! ## Sequences of accesses -/

theorem Access.andThen_eq_ok {α β : Type} {r : Access α} {k : α → State → Access β} {y : β}
    (h : r.andThen k = .ok y t) : ∃ x u, r = .ok x u ∧ k x u = .ok y t := by
  cases r with
  | ok x u => exact ⟨x, u, rfl, h⟩
  | hardFault info u => cases h

/-- An operation that gives a next state is a sequence of accesses that completed. -/
theorem Access.outcome_eq_next {r : Access Unit} (h : r.outcome = .next t) : r = .ok () t := by
  cases r with
  | ok x u => cases h; rfl
  | hardFault info u => cases h

/-! ## Fetching (R120, R121) -/

theorem fetch8_ok (h : fetch8 s = .ok v t) :
    Accessible s.params s.pc ∧ v = peek s s.pc ∧ t = (noteRead s s.pc).setPc (s.pc + 1) := by
  by_cases ha : Accessible s.params s.pc
  · rw [fetch8_eq ha] at h
    cases h
    exact ⟨ha, rfl, rfl⟩
  · rw [fetch8_not_accessible ha] at h
    cases h

/-- A fetched byte keeps what every access keeps. -/
theorem Evolves.fetch8 (h : Machine.fetch8 s = .ok v t) : Evolves s t := by
  obtain ⟨-, -, rfl⟩ := fetch8_ok h
  exact ((Evolves.refl s).noteRead _).registers _ _ _ _ _ _

theorem Evolves.fetchInstr (h : Machine.fetchInstr s = .ok i t) : Evolves s t := by
  obtain ⟨op, s1, h1, h⟩ := Access.andThen_eq_ok h
  have e1 := Evolves.fetch8 h1
  split at h
  · cases h
    exact e1
  · obtain ⟨b1, s2, h2, h⟩ := Access.andThen_eq_ok h
    cases h
    exact e1.trans (Evolves.fetch8 h2)
  · obtain ⟨b1, s2, h2, h⟩ := Access.andThen_eq_ok h
    obtain ⟨b2, s3, h3, h⟩ := Access.andThen_eq_ok h
    cases h
    exact (e1.trans (Evolves.fetch8 h2)).trans (Evolves.fetch8 h3)

/-- The three bytes in view at PC always decode. -/
theorem decode_bytesAtPc (s : State) : ∃ i rest, decode (bytesAtPc s) = .ok (i, rest) := by
  have hle := operandBytesOf_le (peek s s.pc)
  obtain h | h | h : operandBytesOf (peek s s.pc) = 0 ∨ operandBytesOf (peek s s.pc) = 1 ∨
    operandBytesOf (peek s s.pc) = 2 := by omega
  · exact ⟨_, _, decode_none h _⟩
  · exact ⟨_, _, decode_one h _ _⟩
  · exact ⟨_, _, decode_two h _ _ _⟩

/-! ## `exec()`, `clock()` and `tick()`, case by case -/

theorem execNext_next (h : execNext s = .next t) : ∃ i u, fetchInstr s = .ok i u ∧ exec i u = .next t := by
  unfold execNext at h
  split at h
  · exact ⟨_, _, ‹_›, h⟩
  · cases h

theorem execNext_of_fetchInstr (h : fetchInstr s = .ok i u) : execNext s = exec i u := by
  rw [execNext, h]

theorem clock_of_cycles (h : 0 < s.remainingCycles) : clock s = .next (spendCycle s) := by
  rw [clock, if_neg h.ne']

theorem clock_of_execNext (h : s.remainingCycles = 0) (he : execNext s = .next t) :
    clock s = .next (spendCycle t) := by
  rw [clock, if_pos h, he]

theorem clock_of_execNext_fault {f : Fault} (h : s.remainingCycles = 0) (he : execNext s = .fault f) :
    clock s = .fault f := by
  rw [clock, if_pos h, he]

theorem clock_next (h : clock s = .next t) :
    (0 < s.remainingCycles ∧ t = spendCycle s) ∨
    (s.remainingCycles = 0 ∧ ∃ u, execNext s = .next u ∧ t = spendCycle u) := by
  unfold clock at h
  split at h
  case h_1 u hu =>
    cases h
    split_ifs at hu with hr
    · exact .inr ⟨hr, u, hu, rfl⟩
    · cases hu
      exact .inl ⟨Nat.pos_of_ne_zero hr, rfl⟩
  all_goals cases h

theorem step_of_fault {info : HardFault} (h : s.fault = some info) : step s = .fault (.hardFault info s) := by
  rw [step, tick, h]

theorem step_of_phase (hf : s.fault = none) (hp : s.phase ≠ 0) : step s = .next (nextPhase (ppuRun s)) := by
  simp only [step, tick, hf, if_neg hp]

theorem step_of_clock (hf : s.fault = none) (hp : s.phase = 0) (hc : clock (ppuRun s) = .next t) :
    step s = .next (nextPhase t) := by
  simp only [step, tick, hf, if_pos hp, hc]

theorem step_of_clock_fault {f : Fault} (hf : s.fault = none) (hp : s.phase = 0)
    (hc : clock (ppuRun s) = .fault f) : step s = .fault f := by
  simp only [step, tick, hf, if_pos hp, hc]

theorem step_next (h : step s = .next t) : s.fault = none ∧
    ((s.phase ≠ 0 ∧ t = nextPhase (ppuRun s)) ∨
     (s.phase = 0 ∧ ∃ u, clock (ppuRun s) = .next u ∧ t = nextPhase u)) := by
  unfold step tick at h
  split at h
  case h_1 => cases h
  case h_2 hf =>
    refine ⟨hf, ?_⟩
    split at h
    case h_1 u hu =>
      cases h
      split_ifs at hu with hp
      · exact .inr ⟨hp, u, hu, rfl⟩
      · cases hu
        exact .inl ⟨hp, rfl⟩
    all_goals cases h

/-! ## What they keep -/

theorem Evolves.execNext (h : Machine.execNext s = .next t) : Evolves s t := by
  obtain ⟨i, u, hfetch, hexec⟩ := execNext_next h
  exact (Evolves.fetchInstr hfetch).trans (Evolves.exec hexec)

theorem Evolves.spendCycle (h : Evolves s t) : Evolves s (Machine.spendCycle t) :=
  h.setRemaining fun hs => (Nat.sub_le _ _).trans (h.cycles hs)

theorem Evolves.clock (h : Machine.clock s = .next t) : Evolves s t := by
  rcases clock_next h with ⟨-, rfl⟩ | ⟨-, u, hu, rfl⟩
  · exact (Evolves.refl s).spendCycle
  · exact (Evolves.execNext hu).spendCycle

/-- Settles O48: the PPU's run and the phase's move frame the CPU's part, which touches neither. -/
theorem everyTickRunsThePpuOnce : Obligations.EveryTickRunsThePpuOnce := by
  unfold Obligations.EveryTickRunsThePpuOnce
  constructor
  · intro s t h
    obtain ⟨-, ⟨-, rfl⟩ | ⟨-, u, hu, rfl⟩⟩ := step_next h
    · exact ⟨rfl, rfl⟩
    · have hs := Evolves.clock hu
      exact ⟨hs.ppu, congrArg (· + 1) hs.phase⟩
  · intro s hf
    refine ⟨step_of_phase hf, fun hp hr => ?_⟩
    rw [step_of_clock hf hp (clock_of_cycles (s := ppuRun s) hr), nextPhase, spendCycle_phase, ppuRun_phase, hp]
    rfl

/-! ## The invariant -/

theorem State.Inv.evolves (hs : s.Inv) (h : Evolves s t) : t.Inv := by
  obtain ⟨hmem, hppu, hcycles, hfault⟩ := hs
  exact ⟨h.memoryOk hmem, by rwa [h.ppu], h.cycles hcycles, h.fault.trans hfault⟩

/-- One PPU tick moves the counters within their ranges and keeps the pattern memory. -/
theorem State.Inv.ppuRun (hs : s.Inv) : (Machine.ppuRun s).Inv := by
  obtain ⟨hmem, hppu, hcycles, hfault⟩ := hs
  exact ⟨hmem.congr rfl rfl rfl Ppu.run_patternRam rfl, hppu.run, hcycles, hfault⟩

theorem State.Inv.nextPhase (hs : s.Inv) : (Machine.nextPhase s).Inv := by
  obtain ⟨hmem, hppu, hcycles, hfault⟩ := hs
  exact ⟨hmem.congr rfl rfl rfl rfl rfl, hppu, hcycles, hfault⟩

theorem State.Inv.step (hs : s.Inv) (h : Machine.step s = .next t) : t.Inv := by
  obtain ⟨-, ⟨-, rfl⟩ | ⟨-, u, hu, rfl⟩⟩ := step_next h
  · exact hs.ppuRun.nextPhase
  · exact (hs.ppuRun.evolves (Evolves.clock hu)).nextPhase

/-- Settles O57: every memory is empty and every counter at its start. -/
theorem invariantHoldsAtReset : Obligations.InvariantHoldsAtReset := by
  unfold Obligations.InvariantHoldsAtReset
  exact ⟨reset_memoryOk, by unfold Ppu.InRange; decide, Nat.zero_le 7, rfl⟩

/-- Settles O58: the PPU's tick, the CPU's part and the phase each keep the invariant. -/
theorem stepKeepsInvariant : Obligations.StepKeepsInvariant := by
  unfold Obligations.StepKeepsInvariant
  intro s t hs h
  exact hs.step h

/-! ## Host actions (R524) -/

/-- A CPU write that completes. -/
theorem Evolves.cpuBusWrite (h : Machine.cpuBusWrite a v s = .ok () t) : Evolves s t := by
  by_cases ha : Accessible s.params a
  · rw [cpuBusWrite_accessible ha] at h
    cases h
    exact (Evolves.refl s).poke a v
  · rw [cpuBusWrite_not_accessible ha] at h
    cases h

theorem Evolves.memRead16 {w : Addr} (h : Machine.memRead16 a s = .ok w t) : Evolves s t := by
  by_cases h1 : Accessible s.params a
  · by_cases h2 : Accessible s.params (a + 1)
    · rw [memRead16_eq h1 h2] at h
      cases h
      exact ((Evolves.refl s).noteRead _).noteRead _
    · rw [memRead16_high_not_accessible h1 h2] at h
      cases h
  · rw [memRead16_low_not_accessible h1] at h
    cases h

theorem Evolves.init (h : Machine.init s = .ok () t) : Evolves s t := by
  obtain ⟨w, u, hread, hw⟩ := Access.andThen_eq_ok h
  cases hw
  exact (Evolves.memRead16 hread).registers _ _ _ _ _ _

/-- A PPU-side read records at most a diagnostic. -/
theorem Evolves.ppuBusRead (h : Machine.ppuBusRead a s = .ok v t) : Evolves s t := by
  unfold Machine.ppuBusRead cartridgePpuRead at h
  split at h
  · split at h
    · cases h
      exact (Evolves.refl s).note _
    · split at h
      · cases h
        exact Evolves.refl s
      · cases h
  · cases h
    exact (Evolves.refl s).note _

theorem Evolves.tileRow {j : Fin 2} {p : Fin 8} {ty tx row : Nat} {px : List Pixel}
    (h : Machine.tileRow j p ty tx row s = .ok px t) : Evolves s t := by
  obtain ⟨lo, s1, h1, h⟩ := Access.andThen_eq_ok h
  obtain ⟨hi, s2, h2, h⟩ := Access.andThen_eq_ok h
  cases h
  exact (Evolves.ppuBusRead h1).trans (Evolves.ppuBusRead h2)

/-- What each element's operation keeps, the whole collection keeps. -/
theorem Evolves.collect {α β : Type} {f : α → State → Access (List β)}
    (hf : ∀ x s ys t, f x s = .ok ys t → Evolves s t) (xs : List α) :
    ∀ s ys t, Access.collect f xs s = .ok ys t → Evolves s t := by
  induction xs with
  | nil => intro s ys t h; cases h; exact Evolves.refl s
  | cons x xs ih =>
    intro s ys t h
    obtain ⟨y1, s1, h1, h⟩ := Access.andThen_eq_ok h
    obtain ⟨y2, s2, h2, h⟩ := Access.andThen_eq_ok h
    cases h
    exact (hf _ _ _ _ h1).trans (ih _ _ _ h2)

theorem Evolves.getPatternTables {j : Fin 2} {p : Fin 8} {px : List Pixel}
    (h : Machine.getPatternTables j p s = .ok px t) : Evolves s t :=
  Evolves.collect (fun _ => Evolves.collect (fun _ => Evolves.collect (fun _ _ _ _ h => Evolves.tileRow h) _) _) _
    _ _ _ h

/-- A block that answers a host action with a next state has no fault. -/
theorem hostAct_next {h : HostAction} (ha : hostAct h s = .next t) :
    s.fault = none ∧ hostActRunning h s = .next t := by
  unfold hostAct at ha
  split at ha
  case h_1 => cases ha
  case h_2 hf => exact ⟨hf, ha⟩

/-- Every host action is a step, one tick of the PPU, clearing `frame_complete`, or an operation of the CPU's or the
query's accesses. -/
theorem hostActRunning_next {h : HostAction} (ha : hostActRunning h s = .next t) :
    step s = .next t ∨ t = ppuRun s ∨ t = clearFrameComplete s ∨ Evolves s t := by
  cases h
  case tick => exact .inl ha
  case ppuRun => cases ha; exact .inr (.inl rfl)
  case clearFrameComplete => cases ha; exact .inr (.inr (.inl rfl))
  all_goals refine .inr (.inr (.inr ?_))
  case init => exact Evolves.init (Access.outcome_eq_next ha)
  case cpuClock => exact Evolves.clock ha
  case cpuExec => exact Evolves.execNext ha
  case patternTables j p =>
    obtain ⟨px, u, hq, hu⟩ := Access.andThen_eq_ok (Access.outcome_eq_next ha)
    cases hu
    exact Evolves.getPatternTables hq
  case busWrite a v => exact Evolves.cpuBusWrite (Access.outcome_eq_next ha)
  case push v =>
    have hpush := (push_eq_pushed v s).symm.trans (Access.outcome_eq_next ha)
    cases hpush
    exact (Evolves.refl s).pushed v
  case pop =>
    obtain ⟨b, u, hpop, hu⟩ := Access.andThen_eq_ok (Access.outcome_eq_next ha)
    have hpopped := (pop_eq_popped s).symm.trans hpop
    cases hu
    cases hpopped
    exact (Evolves.refl s).popped
  case setFlags b => cases ha; exact (Evolves.refl s).registers _ _ _ _ _ _

theorem State.Inv.clearFrameComplete (hs : s.Inv) : (Machine.clearFrameComplete s).Inv := by
  obtain ⟨hmem, hppu, hcycles, hfault⟩ := hs
  exact ⟨hmem.congr rfl rfl rfl rfl rfl, hppu, hcycles, hfault⟩

/-- Settles O59: each of the four kinds of host action keeps the invariant. -/
theorem hostActionsKeepInvariant : Obligations.HostActionsKeepInvariant := by
  unfold Obligations.HostActionsKeepInvariant
  intro h s t hs ha
  obtain ⟨-, ha⟩ := hostAct_next ha
  rcases hostActRunning_next ha with hstep | rfl | rfl | hevolves
  · exact hs.step hstep
  · exact hs.ppuRun
  · exact hs.clearFrameComplete
  · exact hs.evolves hevolves

/-! ## Diagnostics (R45) -/

theorem diag_le_step (h : step s = .next t) : s.diag.le t.diag := by
  obtain ⟨-, ⟨-, rfl⟩ | ⟨-, u, hu, rfl⟩⟩ := step_next h
  · exact Diag.le_refl _
  · exact (Evolves.clock hu).diag

/-- Settles O53: of the four kinds of host action, the PPU's tick and clearing `frame_complete` do not touch DIAG, and
the others keep every mark. -/
theorem diagnosticsAreSticky : Obligations.DiagnosticsAreSticky := by
  unfold Obligations.DiagnosticsAreSticky
  intro s t h hst
  rcases hst with hstep | ha
  · exact diag_le_step hstep
  obtain ⟨-, ha⟩ := hostAct_next ha
  rcases hostActRunning_next ha with hstep | rfl | rfl | hevolves
  · exact diag_le_step hstep
  · exact Diag.le_refl _
  · exact Diag.le_refl _
  · exact hevolves.diag

/-! ## Runs that never stop -/

/-- With a PRG bank `exec()` completes: every byte at PC is accessible, and so is every operand. -/
theorem execNext_completes (hp : 0 < s.params.prgBanks.val) : ∃ t, execNext s = .next t := by
  obtain ⟨i, rest, hdecode⟩ := decode_bytesAtPc s
  have hfetch := fetchInstr_eq hdecode fun k _ => accessible_of_prgBank hp _
  have hparams : (fetched i.length s).params = s.params := (Evolves.fetchInstr hfetch).params
  exact ⟨_, (execNext_of_fetchInstr hfetch).trans (exec_eq (runs_of_prgBank (by rwa [hparams])))⟩

theorem clock_completes (hp : 0 < s.params.prgBanks.val) : ∃ t, clock s = .next t := by
  rcases Nat.eq_zero_or_pos s.remainingCycles with hr | hr
  · obtain ⟨u, hu⟩ := execNext_completes hp
    exact ⟨_, clock_of_execNext hr hu⟩
  · exact ⟨_, clock_of_cycles hr⟩

theorem step_completes (hp : 0 < s.params.prgBanks.val) (hf : s.fault = none) : ∃ t, step s = .next t := by
  by_cases hphase : s.phase = 0
  · obtain ⟨u, hu⟩ := clock_completes (s := ppuRun s) hp
    exact ⟨_, step_of_clock hf hphase hu⟩
  · exact ⟨_, step_of_phase hf hphase⟩

theorem step_fault_params (h : step s = .next t) : t.fault = s.fault ∧ t.params = s.params := by
  obtain ⟨-, ⟨-, rfl⟩ | ⟨-, u, hu, rfl⟩⟩ := step_next h
  · exact ⟨rfl, rfl⟩
  · have hs := Evolves.clock hu
    exact ⟨hs.fault, hs.params⟩

theorem ticks_succ (h : step s = .next t) (n : Nat) : ticks (n + 1) s = ticks n t := by
  rw [ticks, h]

/-- Settles O60, by induction on the number of ticks: each completes and keeps the parameters and the absence of a
fault, which is all that the next one needs. -/
theorem consistentBlockNeverStops : Obligations.ConsistentBlockNeverStops := by
  unfold Obligations.ConsistentBlockNeverStops
  intro n
  induction n with
  | zero => exact fun s _ hf => ⟨s, rfl, hf, rfl⟩
  | succ n ih =>
    intro s hc hf
    obtain ⟨u, hu⟩ := step_completes hc.1 hf
    obtain ⟨hfault, hparams⟩ := step_fault_params hu
    obtain ⟨t, ht, htf, htp⟩ := ih u (by rwa [hparams]) (hfault.trans hf)
    exact ⟨t, (ticks_succ hu n).trans ht, htf, htp.trans hparams⟩

/-! ## One step in full -/

/-- Settles O47: the fetch of the decoded instruction completes, so `exec()` is `exec` of it, and the decrement and the
phase follow. -/
theorem stepRunsTheDecodedInstruction : Obligations.StepRunsTheDecodedInstruction := by
  unfold Obligations.StepRunsTheDecodedInstruction
  intro s i rest hf hp hr hdecode ha
  have hfetch : fetchInstr { s with ppu := s.ppu.run } = .ok i (fetched i.length { s with ppu := s.ppu.run }) :=
    fetchInstr_eq hdecode ha
  have hexec := execNext_of_fetchInstr hfetch
  cases he : exec i (fetched i.length { s with ppu := s.ppu.run }) with
  | next t =>
    have hphase : t.phase = 0 := ((Evolves.fetchInstr hfetch).trans (Evolves.exec he)).phase.trans hp
    rw [step_of_clock hf hp (clock_of_execNext hr (hexec.trans he)), nextPhase, spendCycle_phase, hphase]
    rfl
  | fault f => exact step_of_clock_fault hf hp (clock_of_execNext_fault hr (hexec.trans he))
  | refused r => exact absurd he exec_ne_refused

/-- Settles O49: a set FAULT is answered before anything else; a PC that is not accessible faults on the opcode
byte's fetch, after the PPU's tick and before the phase. -/
theorem faultedBlockTakesNoStep : Obligations.FaultedBlockTakesNoStep := by
  unfold Obligations.FaultedBlockTakesNoStep
  refine ⟨fun s info hf => ⟨step_of_fault hf, fun h => by rw [hostAct, hf]⟩, fun s hf hp hr ha => ?_⟩
  have hexec : execNext (ppuRun s) = .fault (prgFault s.pc (ppuRun s)) := by
    rw [execNext, fetchInstr, fetch8_not_accessible (s := ppuRun s) ha]
    rfl
  exact step_of_clock_fault hf hp (clock_of_execNext_fault hr hexec)

/-- Reading a byte of RAM or of PRG memory records nothing. -/
theorem noteRead_storable (h : storable s.params a = true) : noteRead s a = s := by
  unfold storable at h
  unfold noteRead
  cases hplace : place s.params a
  case ram | prg | outside => rfl
  case window | unmapped => rw [hplace] at h; cases h

/-- An address that stores is accessible. -/
theorem accessible_of_storable {p : Config.Params} (h : storable p a = true) : Accessible p a := by
  by_contra hn
  obtain ⟨h8, hp⟩ := not_or.mp hn
  have hsize : p.prgSize = 0 := by rw [Config.Params.prgSize, Nat.eq_zero_of_not_pos hp, Nat.zero_mul]
  rw [storable, place, if_neg (by omega), if_neg (by omega), if_neg h8] at h
  simp [hsize] at h

/-- Settles O50: the write is the map's write, and the fetch reads it back. -/
theorem storedByteIsFetched : Obligations.StoredByteIsFetched := by
  unfold Obligations.StoredByteIsFetched
  intro s t v hr hg hs hw
  have ha := accessible_of_storable hs
  rw [cpuBusWrite_accessible ha] at hw
  cases hw
  rw [fetch8_eq (by rw [poke_params, poke_pc]; exact ha), poke_pc, peek_poke_same hr hg hs rfl,
    noteRead_storable (by rwa [poke_params])]
  rfl

end Sys2Proof.Machine

/-! The PPU beside the CPU: what an instruction does does not depend on it (00_scope.md R7, 70_reset_and_hazards.md
R574), and an instruction spans three ticks a cycle (R572, R573). -/
namespace Sys2Proof.Machine

open Host (Outcome)

variable {s t u : State} {a b : Addr} {o : Operand} {v : Byte} {n : Nat} {i : Instr} {p : Ppu}

/-! ## The same state with another PPU -/

/-- The state with the PPU's state replaced. -/
def State.withPpu (s : State) (p : Ppu) : State := { s with ppu := p }

theorem noteRead_withPpu : noteRead (s.withPpu p) a = (noteRead s a).withPpu p := by
  have hparams : (s.withPpu p).params = s.params := rfl
  unfold noteRead
  rw [hparams]
  split
  case h_2 => split_ifs <;> rfl
  all_goals rfl

theorem poke_withPpu : poke (s.withPpu p) a v = (poke s a v).withPpu p := by
  have hparams : (s.withPpu p).params = s.params := rfl
  unfold poke
  rw [hparams]
  split <;> rfl

theorem effAddr_withPpu : effAddr o (s.withPpu p) = effAddr o s := by cases o <;> rfl

theorem operandByte_withPpu : operandByte o (s.withPpu p) = operandByte o s := by cases o <;> rfl

theorem noteOperand_withPpu : noteOperand o (s.withPpu p) = (noteOperand o s).withPpu p := by
  cases o
  case imm => rfl
  all_goals exact noteRead_withPpu

theorem modified_withPpu (f : Byte → Flags → Byte × Flags) :
    modified f o (s.withPpu p) = (modified f o s).withPpu p := by
  simp only [modified, effAddr_withPpu, noteRead_withPpu, poke_withPpu]
  rfl

theorem shifted_withPpu (f : Byte → Flags → Byte × Flags) (o : ShiftOperand) :
    shifted f o (s.withPpu p) = (shifted f o s).withPpu p := by
  cases o with
  | acc => rfl
  | mem o => exact modified_withPpu f

theorem branched_withPpu (cond : Bool) (off : Byte) :
    branched cond off (s.withPpu p) = (branched cond off s).withPpu p := by
  cases cond <;> rfl

theorem effect_withPpu : effect i (s.withPpu p) = (effect i s).withPpu p := by
  cases i
  case lda | ldx | ldy | adc | sbc | cmp | cpx | cpy | and | ora | eor | bit =>
    simp only [effect, operandByte_withPpu, noteOperand_withPpu]
    rfl
  case sta | stx | sty =>
    simp only [effect, effAddr_withPpu, poke_withPpu]
    rfl
  case inc | dec => simp only [effect, modified_withPpu]
  case asl | lsr | rol | ror => simp only [effect, shifted_withPpu]
  case bcc | bcs | beq | bne | bmi | bpl | bvc | bvs => exact branched_withPpu _ _
  case jmp j =>
    cases j with
    | abs w => rfl
    | ind w =>
      simp only [effect, noteRead_withPpu]
      rfl
  case brk =>
    have hflags : (s.withPpu p).flags = s.flags := rfl
    simp only [effect, hflags]
    split_ifs <;> rfl
  all_goals rfl

theorem accessible_effAddr_withPpu :
    Accessible (s.withPpu p).params (effAddr o (s.withPpu p)) ↔ Accessible s.params (effAddr o s) := by
  rw [effAddr_withPpu]
  exact Iff.rfl

theorem runs_withPpu : Runs i (s.withPpu p) ↔ Runs i s := by
  cases i
  case asl o | lsr o | rol o | ror o =>
    cases o with
    | acc => exact Iff.rfl
    | mem o => exact accessible_effAddr_withPpu
  case lda o | ldx o | ldy o | adc o | sbc o | cmp o | cpx o | cpy o | and o | ora o | eor o | bit o =>
    cases o <;> exact Iff.rfl
  case sta o | stx o | sty o | inc o | dec o => exact accessible_effAddr_withPpu
  case jmp j => cases j <;> exact Iff.rfl
  all_goals exact Iff.rfl

theorem cyclesAfter_withPpu : cyclesAfter i (s.withPpu p) = cyclesAfter i s := by cases i <;> rfl

/-- An instruction that completes does the same beside another PPU. -/
theorem exec_withPpu (h : exec i s = .next t) : exec i (s.withPpu p) = .next (t.withPpu p) := by
  obtain ⟨hr, rfl⟩ := exec_next h
  rw [exec_eq (runs_withPpu.mpr hr), effect_withPpu, cyclesAfter_withPpu]
  rfl

/-- Settles O52: the addresses that an instruction needs and its effect do not depend on the PPU. -/
theorem instructionsIgnoreThePpu : Obligations.InstructionsIgnoreThePpu := by
  unfold Obligations.InstructionsIgnoreThePpu
  intro i s t p h
  exact exec_withPpu h

theorem fetch8_withPpu (h : fetch8 s = .ok v t) : fetch8 (s.withPpu p) = .ok v (t.withPpu p) := by
  obtain ⟨ha, rfl, rfl⟩ := fetch8_ok h
  rw [fetch8_eq (s := s.withPpu p) ha]
  exact congrArg (fun u : State => Access.ok (peek s s.pc) (u.setPc (s.pc + 1))) noteRead_withPpu

theorem fetchInstr_withPpu (h : fetchInstr s = .ok i t) : fetchInstr (s.withPpu p) = .ok i (t.withPpu p) := by
  obtain ⟨op, s1, h1, h⟩ := Access.andThen_eq_ok h
  rw [fetchInstr, fetch8_withPpu h1, Access.andThen_ok]
  split at h
  · cases h
    rfl
  · obtain ⟨b1, s2, h2, h⟩ := Access.andThen_eq_ok h
    cases h
    simp only [fetch8_withPpu h2, Access.andThen_ok]
  · obtain ⟨b1, s2, h2, h⟩ := Access.andThen_eq_ok h
    obtain ⟨b2, s3, h3, h⟩ := Access.andThen_eq_ok h
    cases h
    simp only [fetch8_withPpu h2, fetch8_withPpu h3, Access.andThen_ok]

theorem execNext_withPpu (h : execNext s = .next t) : execNext (s.withPpu p) = .next (t.withPpu p) := by
  obtain ⟨i, u, hfetch, hexec⟩ := execNext_next h
  rw [execNext_of_fetchInstr (fetchInstr_withPpu hfetch), exec_withPpu hexec]

/-! ## Counting ticks -/

theorem Ppu.runs_add (m n : Nat) (p : Ppu) : p.runs (m + n) = (p.runs m).runs n := by
  induction m generalizing p with
  | zero => rw [Nat.zero_add]; rfl
  | succ m ih => rw [Nat.succ_add]; exact ih p.run

theorem ticks_succ_next (h : ticks (n + 1) s = .next t) : ∃ u, step s = .next u ∧ ticks n u = .next t := by
  unfold ticks at h
  split at h
  case h_1 u hu => exact ⟨u, hu, h⟩
  all_goals cases h

theorem ticks_add {m : Nat} (h : ticks m s = .next t) (n : Nat) : ticks (m + n) s = ticks n t := by
  induction m generalizing s with
  | zero =>
    cases h
    rw [Nat.zero_add]
  | succ m ih =>
    obtain ⟨u, hu, h⟩ := ticks_succ_next h
    rw [Nat.succ_add, ticks_succ hu, ih h]

/-- The ticks of the two phases other than 0 that follow a clocked one. -/
theorem ticks_two_of_phase_one (hf : s.fault = none) (hp : s.phase = 1) :
    ticks 2 s = .next ((s.withPpu (s.ppu.runs 2)).setPhase 0) := by
  have h1 : step s = .next (nextPhase (ppuRun s)) := step_of_phase hf (by rw [hp]; decide)
  have h2 : step (nextPhase (ppuRun s)) = .next (nextPhase (ppuRun (nextPhase (ppuRun s)))) :=
    step_of_phase hf (by rw [nextPhase_phase, ppuRun_phase, hp]; decide)
  have h3 : nextPhase (ppuRun (nextPhase (ppuRun s))) = (s.withPpu (s.ppu.runs 2)).setPhase (s.phase + 1 + 1) := rfl
  rw [ticks_succ h1, ticks_succ h2, ticks, h3, hp]
  rfl

/-- Three ticks, the first of which clocks the CPU: the clock's state, the PPU having run three times. -/
theorem ticks_three (hf : s.fault = none) (hp : s.phase = 0) (hc : clock (ppuRun s) = .next (ppuRun t))
    (hppu : t.ppu = s.ppu) : ticks 3 s = .next (t.withPpu (s.ppu.runs 3)) := by
  have hevolves := Evolves.clock hc
  have hfault : t.fault = none := hevolves.fault.trans hf
  have hphase : t.phase = 0 := hevolves.phase.trans hp
  have htwo : ticks 2 (nextPhase (ppuRun t)) = _ :=
    ticks_two_of_phase_one hfault (by rw [nextPhase_phase, ppuRun_phase, hphase]; rfl)
  rw [ticks_succ (step_of_clock hf hp hc), htwo, ← hphase, ← hppu]
  rfl

/-- A block with `k` cycles left and the phase at 0 spends them in `3 * k` ticks. -/
theorem ticks_spend (k : Nat) : ∀ s : State, s.fault = none → s.phase = 0 → s.remainingCycles = k →
    ticks (3 * k) s = .next ((s.withPpu (s.ppu.runs (3 * k))).setRemaining 0) := by
  induction k with
  | zero =>
    intro s _ _ hr
    have hs : s.setRemaining 0 = s := by rw [← hr]; rfl
    exact congrArg Outcome.next hs.symm
  | succ k ih =>
    intro s hf hp hr
    have hspent : clock (ppuRun s) = .next (ppuRun (spendCycle s)) :=
      clock_of_cycles (s := ppuRun s) (by rw [ppuRun_remainingCycles, hr]; exact Nat.succ_pos k)
    have hthree := ticks_three hf hp hspent rfl
    have hrest := ih ((spendCycle s).withPpu (s.ppu.runs 3)) hf hp (congrArg (· - 1) hr)
    rw [Nat.mul_succ, Nat.add_comm, ticks_add hthree, hrest, Ppu.runs_add]
    rfl

/-- Settles O51: the first three ticks run the instruction and spend one cycle; each three more spend one. -/
theorem instructionSpansThreeTicksPerCycle : Obligations.InstructionSpansThreeTicksPerCycle := by
  unfold Obligations.InstructionSpansThreeTicksPerCycle
  intro s t hf hp hr h
  have hevolves := Evolves.execNext h
  have hclock : clock (ppuRun s) = .next (ppuRun (spendCycle t)) := by
    rw [clock_of_execNext (s := ppuRun s) hr (execNext_withPpu (p := s.ppu.run) h), ← hevolves.ppu]
    rfl
  have hthree := ticks_three hf hp hclock hevolves.ppu
  have hrest := ticks_spend (t.remainingCycles - 1) ((spendCycle t).withPpu (s.ppu.runs 3))
    (hevolves.fault.trans hf) (hevolves.phase.trans hp) rfl
  have hcount : 3 * max 1 t.remainingCycles = 3 + 3 * (t.remainingCycles - 1) := by omega
  rw [hcount, ticks_add hthree, hrest, Ppu.runs_add]
  rfl

end Sys2Proof.Machine

/-! The PPU's counters over many calls of `run()` (47_ppu_unit.md R403) and its pattern query (R412 to R415). -/
namespace Sys2Proof.Machine

/-! ## The counters -/

theorem Ppu.runs_succ (n : Nat) (p : Ppu) : p.runs (n + 1) = (p.runs n).run := Ppu.runs_add n 1 p

/-- Settles O55, by induction on the number of calls: each is inside a scanline, at the end of one, or at the end of
the frame. -/
theorem ppuCountersAfterRuns : Obligations.PpuCountersAfterRuns := by
  unfold Obligations.PpuCountersAfterRuns
  intro n
  induction n with
  | zero => decide
  | succ n ih =>
    obtain ⟨hcycle, hscanline, hframe⟩ := ih
    rw [Ppu.runs_succ]
    generalize State.reset.ppu.runs n = p at *
    by_cases hc : p.cycle < 340
    · rw [Ppu.run_within_scanline hc]
      exact ⟨show p.cycle + 1 = _ by omega, show p.scanline = _ by omega, hframe.trans (by omega)⟩
    · by_cases hs : p.scanline < 260
      · rw [Ppu.run_scanline_end (by omega) hs]
        exact ⟨show 0 = _ by omega, show p.scanline + 1 = _ by omega, hframe.trans (by omega)⟩
      · rw [Ppu.run_frame_end (by omega) (by omega)]
        exact ⟨show 0 = _ by omega, show -1 = _ by omega, iff_of_true rfl (by omega)⟩

end Sys2Proof.Machine

/-! The PPU's side of the bus, its register window and its pattern query (20_memory.md R63, R64, R88, R90, R101, R102;
47_ppu_unit.md R405 to R409, R412 to R415). -/
namespace Sys2Proof.Machine

variable {s t : State} {a b : Addr} {v : Byte}

/-! ## The PPU's side of the bus -/

theorem ppuBusRead_chr (h : a.toNat < 0x2000) (hc : a.toNat < s.params.chrSize) :
    ppuBusRead a s = .ok (s.chr.read a.toNat) s := by
  simp only [ppuBusRead, cartridgePpuRead, ppuMapRead, if_pos h, if_pos hc, Access.andThen_ok]

theorem ppuBusRead_outside_chr (h : a.toNat < 0x2000) (hc : s.params.chrSize ≤ a.toNat) :
    ppuBusRead a s = .raise (.chrIndexOutOfBounds a a.toNat) s := by
  simp only [ppuBusRead, cartridgePpuRead, ppuMapRead, if_pos h, if_neg hc.not_gt, Access.andThen_raise]

theorem ppuBusRead_unmapped (h : 0x2000 ≤ a.toNat) : ppuBusRead a s = .ok 0x00 (s.note .ppuUnmappedRead) := by
  rw [ppuBusRead, if_neg h.not_gt]

theorem ppuBusWrite_unmapped (h : 0x2000 ≤ a.toNat) : ppuBusWrite a v s = .ok () s := by
  rw [ppuBusWrite, if_neg h.not_gt]

/-- Character ROM is not written. -/
theorem ppuBusWrite_rom (hb : 0 < s.params.chrBanks.val) : ppuBusWrite a v s = .ok () s := by
  have hmap : ppuMapWrite s.params a = none := by rw [ppuMapWrite, if_neg fun h => hb.ne' h.2]
  simp only [ppuBusWrite, cartridgePpuWrite, hmap, Access.andThen_ok, ite_self]

theorem ppuBusWrite_chr (h : a.toNat < 0x2000) (hb : s.params.chrBanks.val = 0) (hc : a.toNat < s.params.chrSize) :
    ppuBusWrite a v s = .ok () (s.writeChr a.toNat v) := by
  have hmap : ppuMapWrite s.params a = some a.toNat := by rw [ppuMapWrite, if_pos ⟨h, hb⟩]
  simp only [ppuBusWrite, cartridgePpuWrite, hmap, if_pos h, if_pos hc, Access.andThen_ok]

theorem ppuBusWrite_outside_chr (h : a.toNat < 0x2000) (hb : s.params.chrBanks.val = 0)
    (hc : s.params.chrSize ≤ a.toNat) : ppuBusWrite a v s = .raise (.chrIndexOutOfBounds a a.toNat) s := by
  have hmap : ppuMapWrite s.params a = some a.toNat := by rw [ppuMapWrite, if_pos ⟨h, hb⟩]
  simp only [ppuBusWrite, cartridgePpuWrite, hmap, if_pos h, if_neg hc.not_gt, Access.andThen_raise]

/-- Settles O9: one range of PPU addresses and kind of character memory per clause. -/
theorem ppuBusReachesCharacterMemory : Obligations.PpuBusReachesCharacterMemory := by
  unfold Obligations.PpuBusReachesCharacterMemory
  intro a v s
  exact ⟨ppuBusRead_chr, ppuBusRead_outside_chr, fun h => ⟨ppuBusRead_unmapped h, ppuBusWrite_unmapped h⟩,
    ppuBusWrite_rom, ppuBusWrite_chr, ppuBusWrite_outside_chr⟩

/-! ## The register window -/

/-- The vblank bit of the status byte is set. -/
theorem ppuStatus_vblank (p : Config.Params) : p.ppuStatus.getLsbD 7 = true := by
  rw [Config.Params.ppuStatus, BitVec.getLsbD_append]
  rfl

/-- Settles O8: register 2 is the status parameter, every other access records a diagnostic. -/
theorem ppuWindowHoldsNoState : Obligations.PpuWindowHoldsNoState := by
  unfold Obligations.PpuWindowHoldsNoState
  intro r v s
  refine ⟨rfl, ppuStatus_vblank _, fun hr => ?_, rfl⟩
  rw [ppuCpuRead, if_neg hr]
  rfl

/-! ## The pattern query -/

/-- The eight pixels of one row of a tile, from the two bytes of character memory. -/
def rowPixels (j : Fin 2) (p : Fin 8) (s : State) (ty tx row : Nat) : List Pixel :=
  (List.range 8).map fun col =>
    { x := tx * 8 + col, y := ty * 8 + row,
      color := paletteColor s.ppu p
        (pixelValue (s.chr.read (tileBase j ty tx + row)) (s.chr.read (tileBase j ty tx + row + 8)) col) }

/-- A collection of operations that each leave the state as it is. -/
theorem Access.collect_eq {α β : Type} {f : α → State → Access (List β)} {g : α → List β} {xs : List α}
    (h : ∀ x ∈ xs, f x s = .ok (g x) s) : Access.collect f xs s = .ok (xs.flatMap g) s := by
  induction xs with
  | nil => rfl
  | cons x xs ih =>
    obtain ⟨hx, hxs⟩ := List.forall_mem_cons.mp h
    rw [Access.collect, hx, Access.andThen_ok, ih hxs, Access.andThen_ok, List.flatMap_cons]

/-- A row's two bytes lie below 0x2000, so both reads give character memory. -/
theorem tileRow_eq {ty tx row : Nat} (j : Fin 2) (p : Fin 8) (hc : 0x2000 ≤ s.params.chrSize) (hty : ty < 16)
    (htx : tx < 16) (hrow : row < 8) : tileRow j p ty tx row s = .ok (rowPixels j p s ty tx row) s := by
  have hread : ∀ k < 0x2000, ppuBusRead (BitVec.ofNat 16 k) s = .ok (s.chr.read k) s := fun k hk => by
    have hk' : (BitVec.ofNat 16 k).toNat = k := by rw [BitVec.toNat_ofNat]; omega
    rw [ppuBusRead_chr (by omega) (by omega), hk']
  have hbase : tileBase j ty tx + row + 8 < 0x2000 := by
    have := j.isLt
    rw [tileBase]
    omega
  rw [tileRow, hread _ (by omega), Access.andThen_ok, hread _ hbase, Access.andThen_ok, rowPixels]

/-- The query's pixels, in the order of R412's loops. -/
theorem getPatternTables_eq (j : Fin 2) (p : Fin 8) (hc : 0x2000 ≤ s.params.chrSize) :
    getPatternTables j p s = .ok ((List.range 16).flatMap fun ty => (List.range 16).flatMap fun tx =>
      (List.range 8).flatMap (rowPixels j p s ty tx)) s :=
  Access.collect_eq fun _ hty => Access.collect_eq fun _ htx => Access.collect_eq fun _ hrow =>
    tileRow_eq j p hc (List.mem_range.mp hty) (List.mem_range.mp htx) (List.mem_range.mp hrow)

/-- Settles O56: the pixels are those of the 16 by 16 tiles' eight rows, and the pixel of a position is found in its
tile, row and column. -/
theorem patternQueryGivesEveryPixel : Obligations.PatternQueryGivesEveryPixel := by
  unfold Obligations.PatternQueryGivesEveryPixel
  intro j p s hc
  refine ⟨_, getPatternTables_eq j p hc, ?_, ?_⟩
  · simp [List.length_flatMap, rowPixels]
  · intro ty tx row col hty htx hrow hcol
    refine List.mem_flatMap.mpr ⟨ty, List.mem_range.mpr hty, List.mem_flatMap.mpr ⟨tx, List.mem_range.mpr htx,
      List.mem_flatMap.mpr ⟨row, List.mem_range.mpr hrow, List.mem_map.mpr ⟨col, List.mem_range.mpr hcol, ?_⟩⟩⟩⟩
    simp only [paletteColor, pixelValue, bitByte_toNat]
    rfl

end Sys2Proof.Machine

/-! The arbiter's write and memory behind it (20_memory.md R84 to R98, R109, R113). -/
namespace Sys2Proof.Machine

open Config (Params)

variable {s t : State} {a b : Addr} {v : Byte} {p : Params}

/-! ## The arbiter's write, range by range -/

theorem cpuBusWrite_ram_range (h : a.toNat < 0x2000) :
    cpuBusWrite a v s = .ok () (s.writeRam (a.toNat % 2048) v) := by
  rw [cpuBusWrite_accessible (.inl (by omega)), poke, place_ram_range h]

theorem cpuBusWrite_window_range (h : 0x2000 ≤ a.toNat) (h' : a.toNat < 0x4000) :
    cpuBusWrite a v s = ppuCpuWrite (a.toNat % 8) v s := by
  rw [cpuBusWrite_accessible (.inl (by omega)), poke, place_window_range h h', ppuCpuWrite]

theorem cpuBusWrite_unmapped_range (h : 0x4000 ≤ a.toNat) (h' : a.toNat < 0x8000) :
    cpuBusWrite a v s = .ok () (s.note .unmappedWrite) := by
  rw [cpuBusWrite_accessible (.inl h'), poke, place_unmapped_range h h']

theorem cpuBusWrite_prg_range (h : 0x8000 ≤ a.toNat) (hp : 0 < s.params.prgBanks.val) :
    cpuBusWrite a v s =
      .ok () (s.writePrg (if s.params.prgBanks.val > 1 then a.toNat % 0x8000 else a.toNat % 0x4000) v) := by
  rw [cpuBusWrite_accessible (.inr hp), poke, place_prg_memory h hp]

/-- Settles O6: one range of the address map per clause; the two PRG clauses differ in the mapper's mask. -/
theorem busWriteFollowsPrecedence : Obligations.BusWriteFollowsPrecedence := by
  unfold Obligations.BusWriteFollowsPrecedence
  intro a v s
  refine ⟨cpuBusWrite_ram_range, cpuBusWrite_window_range, cpuBusWrite_unmapped_range,
    fun h hp => ?_, fun h hp => ?_⟩
  · rw [cpuBusWrite_prg_range h (by omega), if_pos hp]
    rfl
  · rw [cpuBusWrite_prg_range h (by omega), if_neg (by omega)]
    rfl

/-! ## Without a PRG bank -/

/-- Settles O7: no address from 0x8000 up is accessible, the reset vector's low byte included. -/
theorem noPrgBankRaisesHardFault : Obligations.NoPrgBankRaisesHardFault := by
  unfold Obligations.NoPrgBankRaisesHardFault
  intro a v s hp h
  have ha := not_accessible_of_no_prgBank hp h
  have hvector : ¬ Accessible s.params Config.resetVector := not_accessible_of_no_prgBank hp (by decide)
  refine ⟨cpuBusRead_not_accessible ha, cpuBusWrite_not_accessible ha, ?_⟩
  rw [init, memRead16_low_not_accessible hvector, Access.andThen_raise]
  rfl

/-! ## Reading back -/

/-- RAM stores, and PRG memory where it exists. -/
theorem storable_of_range (h : a.toNat < 0x2000 ∨ (0x8000 ≤ a.toNat ∧ 0 < p.prgBanks.val)) :
    storable p a = true := by
  rcases h with h | ⟨h, hp⟩
  · rw [storable, place_ram_range h]
  · rw [storable, place_prg_memory h hp]

/-- Two PRG addresses with the same mapped offset are the same byte. -/
theorem place_eq_of_cpuMapRead_eq (ha : 0x8000 ≤ a.toNat) (hb : 0x8000 ≤ b.toNat) (hp : 0 < p.prgBanks.val)
    (h : cpuMapRead p a = cpuMapRead p b) : place p b = place p a := by
  rw [cpuMapRead_eq, cpuMapRead_eq, if_pos ha, if_pos hb] at h
  rw [place_prg_memory ha hp, place_prg_memory hb hp, Option.some.inj h]

/-- After a write that stores, a read at the same place gives the byte and has no effect. -/
theorem cpuBusRead_poke_same (hr : s.ram.wf = true) (hg : s.prg.wf = true) (hs : storable s.params a = true)
    (hab : place s.params b = place s.params a) : cpuBusRead b (poke s a v) = .ok v (poke s a v) := by
  have hsb : storable (poke s a v).params b = true := by rw [poke_params, storable, hab]; exact hs
  rw [cpuBusRead_accessible (accessible_of_storable hsb), peek_poke_same hr hg hs hab, noteRead_storable hsb]

/-- Settles O10: the write is the map's write, two addresses of the same place see the same byte, and every other
place keeps its own. -/
theorem writeIsSeenThroughEveryAlias : Obligations.WriteIsSeenThroughEveryAlias := by
  unfold Obligations.WriteIsSeenThroughEveryAlias
  intro s a v hr hg ha
  have hs : storable s.params a = true := storable_of_range ha
  refine ⟨_, cpuBusWrite_accessible (accessible_of_storable hs), fun b => ⟨?_, peek_poke_other⟩⟩
  rintro (⟨ha2, hb2, hmod⟩ | ⟨ha8, hb8, hmap⟩)
  · exact cpuBusRead_poke_same hr hg hs (by rw [place_ram_range ha2, place_ram_range hb2, hmod])
  · have hp : 0 < s.params.prgBanks.val := by omega
    exact cpuBusRead_poke_same hr hg hs (place_eq_of_cpuMapRead_eq ha8 hb8 hp hmap)

/-- A write to PRG memory is read back at its address, whatever RAM holds. -/
theorem peek_poke_prg_memory (hg : s.prg.wf = true) (h : 0x8000 ≤ a.toNat) (hp : 0 < s.params.prgBanks.val) :
    peek (poke s a v) a = v := by
  rw [peek_prg_memory h (by rwa [poke_params]), poke_params, poke, place_prg_memory h hp]
  exact Memory.read_write_same _ v hg

theorem poke_prg_wf (hg : s.prg.wf = true) : (poke s a v).prg.wf = true := by
  unfold poke
  split
  case h_4 => exact Memory.wf_write _ v hg
  all_goals exact hg

/-- The two bytes of the reset vector are different bytes of PRG memory. -/
theorem place_resetVector_ne (hp : 0 < p.prgBanks.val) : place p 0xFFFC ≠ place p 0xFFFD := by
  rw [place_prg_memory (by decide) hp, place_prg_memory (by decide) hp]
  split_ifs <;> decide

/-- Settles O3: the second write leaves the first byte of the vector alone, so `init()` reads both back. -/
theorem storedResetVectorIsLoaded : Obligations.StoredResetVectorIsLoaded := by
  unfold Obligations.StoredResetVectorIsLoaded
  intro s l h hg hp
  have hp1 : 0 < (poke s 0xFFFC l).params.prgBanks.val := by rwa [poke_params]
  have hp2 : 0 < (poke (poke s 0xFFFC l) 0xFFFD h).params.prgBanks.val := by rwa [poke_params]
  have hlow : peek (poke (poke s 0xFFFC l) 0xFFFD h) 0xFFFC = l := by
    rw [peek_poke_other (place_resetVector_ne hp1), peek_poke_prg_memory hg (by decide) hp]
  have hhigh : peek (poke (poke s 0xFFFC l) 0xFFFD h) 0xFFFD = h :=
    peek_poke_prg_memory (poke_prg_wf hg) (by decide) hp1
  exact ⟨_, _, _, cpuBusWrite_accessible (.inr hp), cpuBusWrite_accessible (.inr hp1), init_prg_memory hp2,
    congrArg₂ word hhigh hlow⟩

end Sys2Proof.Machine

/-! The stack and the instructions that use it (10_state.md R26, R27; 43_control.md R300 to R302;
44_stack_flag_system.md R320 to R323, R334, R335). -/
namespace Sys2Proof.Machine

variable {s t u : State} {b : Addr} {k v : Byte}

/-! ## Slots -/

/-- The RAM index of the slot that a stack pointer designates. -/
theorem slot_ne {j k : Byte} (h : j ≠ k) : 0x100 + j.toNat ≠ 0x100 + k.toNat :=
  fun he => h (BitVec.eq_of_toNat_eq (Nat.add_left_cancel he))

theorem pushed_ram_wf (h : s.ram.wf = true) : (pushed v s).ram.wf = true := Memory.wf_write _ v h

theorem popped_ram_wf (h : s.ram.wf = true) : (popped s).ram.wf = true := Memory.wf_write _ 0x00 h

theorem stackTop_pushed (h : s.ram.wf = true) : stackTop (pushed v s) = v := Memory.read_write_same _ v h

theorem read_pushed_other (h : k ≠ s.sp - 1) :
    (pushed v s).ram.read (0x100 + k.toNat) = s.ram.read (0x100 + k.toNat) :=
  Memory.read_write_other _ v (slot_ne h)

theorem read_popped_same (h : s.ram.wf = true) : (popped s).ram.read (0x100 + s.sp.toNat) = 0x00 :=
  Memory.read_write_same _ 0x00 h

theorem read_popped_other (h : k ≠ s.sp) :
    (popped s).ram.read (0x100 + k.toNat) = s.ram.read (0x100 + k.toNat) :=
  Memory.read_write_other _ 0x00 (slot_ne h)

theorem byte_add_one_ne (k : Byte) : k + 1 ≠ k := by bv_omega

/-- The byte above a popped slot is not the popped one. -/
theorem stackTop_popped (s : State) : stackTop (popped s) = s.ram.read (0x100 + (s.sp + 1).toNat) :=
  read_popped_other (byte_add_one_ne s.sp)

theorem byte_sub_one_add_one (k : Byte) : k - 1 + 1 = k := by bv_omega

theorem byte_ne_sub_one (k : Byte) : k ≠ k - 1 := by bv_omega

/-- The first of two pushed bytes. -/
theorem read_two_pushed {w : Byte} (h : s.ram.wf = true) :
    (pushed w (pushed v s)).ram.read (0x100 + (s.sp - 1).toNat) = v :=
  (read_pushed_other (s := pushed v s) (byte_ne_sub_one _)).trans (stackTop_pushed h)

/-- Settles O12: the pop undoes the push but for the slot, which it leaves zero. -/
theorem pushThenPopReturnsTheByte : Obligations.PushThenPopReturnsTheByte := by
  unfold Obligations.PushThenPopReturnsTheByte
  intro s v h
  have hsp := byte_sub_one_add_one s.sp
  refine ⟨_, _, push_eq_pushed v s, rfl, (peek_stack _ _).trans (stackTop_pushed h), ?_, hsp,
    (peek_stack _ _).trans (read_popped_same (pushed_ram_wf h)), fun b hb => ?_, ?_⟩
  · rw [pop_eq_popped, stackTop_pushed h]
  · exact (peek_popped_other (s := pushed v s) hb).trans (peek_pushed_other hb)
  · show { s with sp := s.sp - 1 + 1 } = s
    rw [hsp]

/-! ## JSR and RTS -/

/-- Everything that popping a return address writes. -/
theorem poppedPc_eq (s : State) : poppedPc s = { s with
    pc := word ((s.ram.write (0x100 + s.sp.toNat) 0x00).read (0x100 + (s.sp + 1).toNat))
      (s.ram.read (0x100 + s.sp.toNat)) + 1
    sp := s.sp + 1 + 1
    ram := (s.ram.write (0x100 + s.sp.toNat) 0x00).write (0x100 + (s.sp + 1).toNat) 0x00 } := rfl

/-- Settles O30: two pushes and two pops, the slots counted from the SP before. -/
theorem jsrPushesAndRtsPops : Obligations.JsrPushesAndRtsPops := by
  unfold Obligations.JsrPushesAndRtsPops
  refine ⟨⟨fun w => rfl, rfl⟩, fun s => ⟨fun w => ?_, ?_⟩⟩
  · have hsp : s.sp - 2 = s.sp - 1 - 1 := by bv_omega
    rw [hsp]
    exact exec_eq trivial
  · have hsp : s.sp + 2 = s.sp + 1 + 1 := by bv_omega
    rw [hsp]
    exact exec_eq trivial

/-- The return address that RTS pops, and what it leaves in the two slots. -/
theorem poppedPc_pc (s : State) : (poppedPc s).pc =
    word (s.ram.read (0x100 + (s.sp + 1).toNat)) (s.ram.read (0x100 + s.sp.toNat)) + 1 := by
  rw [← stackTop_popped]
  rfl

theorem read_poppedPc_low (h : s.ram.wf = true) : (poppedPc s).ram.read (0x100 + s.sp.toNat) = 0x00 := by
  have hne : s.sp ≠ (popped s).sp := show s.sp ≠ s.sp + 1 by bv_omega
  exact (read_popped_other hne).trans (read_popped_same h)

theorem read_poppedPc_high (h : s.ram.wf = true) : (poppedPc s).ram.read (0x100 + (s.sp + 1).toNat) = 0x00 :=
  read_popped_same (s := popped s) (popped_ram_wf h)

theorem read_poppedPc_other (h0 : k ≠ s.sp) (h1 : k ≠ s.sp + 1) :
    (poppedPc s).ram.read (0x100 + k.toNat) = s.ram.read (0x100 + k.toNat) :=
  (read_popped_other (s := popped s) h1).trans (read_popped_other h0)

/-- The word whose bytes were pushed, popped back: the address after the one pushed. -/
theorem word_bytes_add_one (w : Addr) : word (hi8 (w - 1)) (lo8 (w - 1)) + 1 = w := by
  rw [word_hi8_lo8]
  bv_omega

/-- Settles O31: the two slots hold the bytes of PC minus one, and RTS pops them. -/
theorem rtsReturnsAfterJsr : Obligations.RtsReturnsAfterJsr := by
  unfold Obligations.RtsReturnsAfterJsr
  intro w s t u hs hjsr hu hsp hkept
  have hsub2 : s.sp - 2 = s.sp - 1 - 1 := by bv_omega
  rw [hsub2] at hkept ⊢
  obtain ⟨-, rfl⟩ := exec_next hjsr
  have hhigh : u.ram.read (0x100 + (s.sp - 1).toNat) = hi8 (s.pc - 1) :=
    (hkept _ (by simp)).trans (read_two_pushed hs)
  have hlow : u.ram.read (0x100 + (s.sp - 1 - 1).toNat) = lo8 (s.pc - 1) :=
    (hkept _ (by simp)).trans (stackTop_pushed (pushed_ram_wf hs))
  replace hsp : u.sp = s.sp - 1 - 1 := hsp
  have hsp1 : u.sp + 1 = s.sp - 1 := by rw [hsp, byte_sub_one_add_one]
  refine ⟨_, exec_eq trivial, ?_, ?_, ?_, ?_⟩
  · show (poppedPc u).pc = s.pc
    rw [poppedPc_pc, hsp1, hsp, hhigh, hlow, word_bytes_add_one]
  · show u.sp + 1 + 1 = s.sp
    rw [hsp1, byte_sub_one_add_one]
  · rw [← hsp1]
    exact read_poppedPc_high (s := u) hu
  · rw [← hsp]
    exact read_poppedPc_low (s := u) hu

/-! ## PHA, PLA, PHP, PLP -/

/-- Settles O32: one push or one pop each, and the destination's write. -/
theorem stackInstructionsPushAndPull : Obligations.StackInstructionsPushAndPull := by
  unfold Obligations.StackInstructionsPushAndPull
  exact ⟨⟨rfl, rfl, rfl, rfl⟩, fun s => ⟨exec_eq trivial, exec_eq trivial, exec_eq trivial, exec_eq trivial⟩⟩

/-! ## BRK and RTI -/

/-- The trap's frame, its slots counted from the SP before. -/
theorem trapFrame_eq (s : State) : trapFrame s = { s with
    sp := s.sp - 3
    ram := ((s.ram.write (0x100 + (s.sp - 1).toNat) (hi8 s.pc)).write
      (0x100 + (s.sp - 2).toNat) (lo8 s.pc)).write (0x100 + (s.sp - 3).toNat) s.flags.pack } := by
  have h2 : s.sp - 2 = s.sp - 1 - 1 := by bv_omega
  have h3 : s.sp - 3 = s.sp - 1 - 1 - 1 := by bv_omega
  rw [h2, h3]
  rfl

/-- Settles O35: suppressed, taken, or stopped at the vector, which only PRG memory holds. -/
theorem brkTakesTheTrap : Obligations.BrkTakesTheTrap := by
  unfold Obligations.BrkTakesTheTrap
  refine ⟨rfl, fun s => ⟨execBrk_suppressed, fun hi hp => ?_, fun hi hp => ?_⟩⟩
  · exact (execBrk_taken hi hp).trans (by rw [trapFrame_eq]; rfl)
  · exact (execBrk_no_vector hi hp).trans (by rw [trapFrame_eq]; rfl)

/-- Settles O36: three pops, the slots counted from the SP before. -/
theorem rtiRestoresFlagsAndReturns : Obligations.RtiRestoresFlagsAndReturns := by
  unfold Obligations.RtiRestoresFlagsAndReturns
  refine ⟨rfl, fun s => ?_⟩
  have h2 : s.sp + 2 = s.sp + 1 + 1 := by bv_omega
  have h3 : s.sp + 3 = s.sp + 1 + 1 + 1 := by bv_omega
  rw [h2, h3]
  refine (exec_eq (i := .rti) (s := s) trivial).trans ?_
  rw [effect, poppedPc_eq]
  rfl

/-- Settles O11: bit by bit over all flag sets, and byte by byte. -/
theorem flagByteRoundTrips : Obligations.FlagByteRoundTrips := by
  unfold Obligations.FlagByteRoundTrips
  constructor
  · rintro ⟨n, v, z, c, i⟩
    revert n v z c i
    decide
  · decide

theorem unpack_pack (f : Flags) : Flags.unpack f.pack = f := by
  obtain ⟨-, -, -, -, -, -, -, -, h⟩ := flagByteRoundTrips.1 f
  exact h

/-- The trap's frame: the high byte of PC, its low byte, the flags. -/
theorem read_trapFrame (h : s.ram.wf = true) :
    (trapFrame s).ram.read (0x100 + (s.sp - 1).toNat) = hi8 s.pc ∧
    (trapFrame s).ram.read (0x100 + (s.sp - 1 - 1).toNat) = lo8 s.pc ∧
    (trapFrame s).ram.read (0x100 + (s.sp - 1 - 1 - 1).toNat) = s.flags.pack := by
  have hne : s.sp - 1 ≠ s.sp - 1 - 1 - 1 := by bv_omega
  refine ⟨?_, ?_, ?_⟩
  · exact (read_pushed_other (s := pushed (lo8 s.pc) (pushed (hi8 s.pc) s)) hne).trans (read_two_pushed h)
  · exact read_two_pushed (s := pushed (hi8 s.pc) s) (pushed_ram_wf h)
  · exact stackTop_pushed (pushed_ram_wf (pushed_ram_wf h))

/-- The return address of RTI lies above the flag byte. -/
theorem effect_rti_pc (s : State) : (effect .rti s).pc =
    word (s.ram.read (0x100 + (s.sp + 1 + 1).toNat)) (s.ram.read (0x100 + (s.sp + 1).toNat)) + 1 := by
  have hne : s.sp + 1 + 1 ≠ s.sp := by bv_omega
  rw [← read_popped_other (byte_add_one_ne s.sp), ← read_popped_other hne]
  exact poppedPc_pc ((popped s).setFlags (.unpack (stackTop s)))

/-- RTI zeroes its three slots. -/
theorem read_effect_rti (h : s.ram.wf = true) :
    (effect .rti s).ram.read (0x100 + s.sp.toNat) = 0x00 ∧
    (effect .rti s).ram.read (0x100 + (s.sp + 1).toNat) = 0x00 ∧
    (effect .rti s).ram.read (0x100 + (s.sp + 1 + 1).toNat) = 0x00 := by
  have hne : s.sp ≠ s.sp + 1 + 1 := by bv_omega
  refine ⟨?_, read_poppedPc_low (popped_ram_wf h), read_poppedPc_high (popped_ram_wf h)⟩
  exact (read_poppedPc_other (s := (popped s).setFlags (.unpack (stackTop s))) (byte_add_one_ne s.sp).symm hne).trans
    (read_popped_same h)

/-- Settles O37: the three slots hold the trap's frame; RTI pops the flags, and then PC as RTS does. -/
theorem rtiResumesTwoBytesAfterBrk : Obligations.RtiResumesTwoBytesAfterBrk := by
  unfold Obligations.RtiResumesTwoBytesAfterBrk
  intro s t u hs hi hbrk hu hsp hkept
  have hsub2 : s.sp - 2 = s.sp - 1 - 1 := by bv_omega
  have hsub3 : s.sp - 3 = s.sp - 1 - 1 - 1 := by bv_omega
  rw [hsub2, hsub3] at hkept ⊢
  obtain ⟨hframe, hframesp⟩ : t.ram = (trapFrame s).ram ∧ t.sp = (trapFrame s).sp := by
    obtain ⟨-, rfl⟩ := exec_next hbrk
    rw [effect, if_neg (by simp [hi])]
    exact ⟨rfl, rfl⟩
  rw [hframe] at hkept
  obtain ⟨hhigh, hlow, hflags⟩ := read_trapFrame hs
  replace hsp : u.sp = s.sp - 1 - 1 - 1 := hsp.trans hframesp
  have hsp1 : u.sp + 1 = s.sp - 1 - 1 := by rw [hsp, byte_sub_one_add_one]
  have hsp2 : u.sp + 1 + 1 = s.sp - 1 := by rw [hsp1, byte_sub_one_add_one]
  obtain ⟨hzero, hzero1, hzero2⟩ := read_effect_rti hu
  rw [hsp] at hzero
  rw [hsp1] at hzero1
  rw [hsp2] at hzero2
  refine ⟨_, exec_eq trivial, ?_, ?_, ?_, hzero2, hzero1, hzero⟩
  · show (effect .rti u).pc = s.pc + 1
    rw [effect_rti_pc, hsp2, hsp1, hkept _ (by simp), hkept _ (by simp), hhigh, hlow, word_hi8_lo8]
  · show Flags.unpack (stackTop u) = s.flags
    rw [stackTop, hsp, hkept _ (by simp), hflags, unpack_pack]
  · show u.sp + 1 + 1 + 1 = s.sp
    rw [hsp2, byte_sub_one_add_one]

end Sys2Proof.Machine

/-! The adder's laws, shifts, addressing modes, JMP, and the instructions that only copy, count or set
(40_load_store_transfer.md, 41_arithmetic.md, 42_logic_shift.md, 43_control.md, 44_stack_flag_system.md), with the
cycle table (70_reset_and_hazards.md R590). -/
namespace Sys2Proof.Machine

variable {s t : State} {o : Operand}

/-! ## The adder in integers (R231) -/

/-- Bit 7 is the sign: set in the upper half of the byte's range. -/
theorem getLsbD_seven (v : Byte) : v.getLsbD 7 = decide (128 ≤ v.toNat) :=
  (BitVec.msb_eq_getLsbD_last v).symm.trans (BitVec.msb_eq_decide v)

/-- The signed value of a byte from its unsigned one. -/
theorem toInt_eq_ite (v : Byte) : v.toInt = if v.toNat < 128 then (v.toNat : Int) else v.toNat - 256 := by
  have hlt := v.isLt
  rw [BitVec.toInt_eq_toNat_cond]
  split_ifs <;> omega

theorem addResult_toNat (a m : Byte) (c : Bool) : (addResult a m c).toNat = addSum a m c % 256 :=
  BitVec.toNat_ofNat _ _

/-- `V` of the adder by the sign bits `x` and `y` of the operands and `r` of the result. -/
theorem overflow_bits_iff (x y r : Bool) : ((x ^^ r) && !(x ^^ y)) = true ↔ x = y ∧ r ≠ x := by
  revert x y r
  decide

/-- Everything the adder writes but Z and N, in integers: `V` is set when the operands have one sign and the result
the other, which is when the signed sum leaves the range of a byte. -/
theorem addCore_integer_laws (m : Byte) (s : State) :
    let cin : Int := if s.flags.c then 1 else 0
    ((addCore m s).a.toNat : Int) = (s.a.toNat + m.toNat + cin) % 256 ∧
    ((addCore m s).flags.c = true ↔ 256 ≤ s.a.toNat + m.toNat + cin) ∧
    ((addCore m s).flags.v = true ↔ s.a.toInt + m.toInt + cin < -128 ∨ 127 < s.a.toInt + m.toInt + cin) := by
  have ha := s.a.isLt
  have hm := m.isLt
  refine ⟨?_, ?_, ?_⟩
  · show ((addResult s.a m s.flags.c).toNat : Int) = _
    rw [addResult_toNat, addSum_eq]
    split_ifs <;> omega
  · show decide (addSum s.a m s.flags.c > 255) = true ↔ _
    rw [decide_eq_true_eq, addSum_eq]
    split_ifs <;> omega
  · show ((_ ^^ _) && !(_ ^^ _)) = true ↔ _
    simp only [overflow_bits_iff, getLsbD_seven, ne_eq, decide_eq_decide, addResult_toNat, addSum_eq, toInt_eq_ite]
    split_ifs <;> omega

theorem not_toNat (m : Byte) : (~~~m).toNat = 255 - m.toNat := BitVec.toNat_not

theorem not_toInt (m : Byte) : (~~~m).toInt = -1 - m.toInt := by
  have hm := m.isLt
  rw [toInt_eq_ite, toInt_eq_ite, not_toNat]
  split_ifs <;> omega

/-- Settles O20: the adder's laws for ADC; for SBC with the complement of the operand, which is `255 - M` unsigned and
`-1 - M` signed. -/
theorem adcSbcIntegerLaws : Obligations.AdcSbcIntegerLaws := by
  unfold Obligations.AdcSbcIntegerLaws
  intro o s t _
  constructor
  · intro h
    obtain ⟨-, rfl⟩ := exec_next h
    have hlaws := addCore_integer_laws (operandByte o s) (noteOperand o s)
    rwa [noteOperand_a, noteOperand_flags] at hlaws
  · intro h
    obtain ⟨-, rfl⟩ := exec_next h
    have hlaws := addCore_integer_laws (~~~(operandByte o s)) (noteOperand o s)
    rw [noteOperand_a, noteOperand_flags, not_toNat, not_toInt] at hlaws
    obtain ⟨hresult, hcarry, hoverflow⟩ := hlaws
    have hm := (operandByte o s).isLt
    refine ⟨hresult.trans ?_, hcarry.trans ?_, hoverflow.trans ?_⟩ <;> split_ifs <;> omega

/-! ## Shifts in integers (R266 to R269) -/

/-- The four results byte by byte, the carry in being 0 or 1. -/
theorem shift_results : ∀ (v : Byte) (c : Bool),
    aslResult v = BitVec.ofNat 8 ((2 * v.toNat + 0) % 256) ∧ lsrResult v = BitVec.ofNat 8 (v.toNat / 2 + 128 * 0) ∧
    rolResult v c = BitVec.ofNat 8 ((2 * v.toNat + if c then 1 else 0) % 256) ∧
    rorResult v c = BitVec.ofNat 8 (v.toNat / 2 + 128 * if c then 1 else 0) := by decide

theorem aslResult_eq (v : Byte) : aslResult v = BitVec.ofNat 8 ((2 * v.toNat + 0) % 256) :=
  (shift_results v false).1

theorem lsrResult_eq (v : Byte) : lsrResult v = BitVec.ofNat 8 (v.toNat / 2 + 128 * 0) :=
  (shift_results v false).2.1

theorem rolResult_eq (v : Byte) (c : Bool) :
    rolResult v c = BitVec.ofNat 8 ((2 * v.toNat + if c then 1 else 0) % 256) := (shift_results v c).2.2.1

theorem rorResult_eq (v : Byte) (c : Bool) :
    rorResult v c = BitVec.ofNat 8 (v.toNat / 2 + 128 * if c then 1 else 0) := (shift_results v c).2.2.2

/-- Settles O26: the encodings are rows of R151's table; the effects are those of the accumulator and of memory, with
the results in integers. -/
theorem shiftsMoveBitsThroughCarry : Obligations.ShiftsMoveBitsThroughCarry := by
  unfold Obligations.ShiftsMoveBitsThroughCarry
  constructor
  · intro b w
    and_intros <;> rfl
  · intro s
    simp only [← aslResult_eq, ← lsrResult_eq, ← rolResult_eq, ← rorResult_eq]
    exact ⟨⟨exec_eq trivial, exec_eq trivial, exec_eq trivial, exec_eq trivial⟩, fun o h =>
      ⟨complete_modifyShift_accessible _ h, complete_modifyShift_accessible _ h, complete_modifyShift_accessible _ h,
        complete_modifyShift_accessible _ h⟩⟩

/-! ## Addressing modes in integers -/

/-- A zero-page address, extended from a byte. -/
theorem zext16_eq_ofNat (b : Byte) : zext16 b = BitVec.ofNat 16 b.toNat :=
  BitVec.eq_of_toNat_eq (by rw [zext16_toNat, BitVec.toNat_ofNat]; omega)

/-- An indexed zero-page address wraps in page 0. -/
theorem zext16_add_eq_ofNat (b x : Byte) : zext16 (b + x) = BitVec.ofNat 16 ((b.toNat + x.toNat) % 256) := by
  rw [zext16_eq_ofNat, BitVec.toNat_add]

/-- An indexed address wraps modulo 65536. -/
theorem add_zext16_eq_ofNat (w : Addr) (x : Byte) :
    w + zext16 x = BitVec.ofNat 16 ((w.toNat + x.toNat) % 65536) := by
  apply BitVec.eq_of_toNat_eq
  rw [BitVec.toNat_add, zext16_toNat, BitVec.toNat_ofNat, Nat.mod_mod]

/-- The address before another, modulo 65536. -/
theorem sub_one_eq_ofNat (w : Addr) : w - 1 = BitVec.ofNat 16 ((w.toNat + 65535) % 65536) := by bv_omega

/-- The word at a pointer in page 0, whose high byte's address wraps there. -/
theorem peekZP16_eq_ofNat (s : State) (p : Byte) : peekZP16 s p =
    BitVec.ofNat 16 (256 * (s.ram.read ((p.toNat + 1) % 256)).toNat + (s.ram.read p.toNat).toNat) := by
  rw [peekZP16, peek_zeroPage, peek_zeroPage, word, Nat.mul_comm, BitVec.toNat_add]
  rfl

theorem effAddr_indx_eq_ofNat (b : Byte) (s : State) : effAddr (.indx b) s =
    BitVec.ofNat 16 (256 * (s.ram.read (((b.toNat + s.x.toNat) % 256 + 1) % 256)).toNat +
      (s.ram.read ((b.toNat + s.x.toNat) % 256)).toNat) := by
  rw [effAddr, peekZP16_eq_ofNat, BitVec.toNat_add]

theorem effAddr_indy_eq_ofNat (b : Byte) (s : State) : effAddr (.indy b) s =
    BitVec.ofNat 16 ((256 * (s.ram.read ((b.toNat + 1) % 256)).toNat + (s.ram.read b.toNat).toNat + s.y.toNat) %
      65536) := by
  rw [effAddr, add_zext16_eq_ofNat, peekZP16_eq_ofNat, BitVec.toNat_ofNat, Nat.mod_add_mod]

theorem ea_of_effAddr {a : Addr} (h : effAddr o s = a) : ea o s = .ok a s := by rw [ea_eq, h]

/-- Settles O27: `ea` is the formula `effAddr`, each of whose cases is a sum modulo 256 or 65536. -/
theorem effectiveAddressesWrap : Obligations.EffectiveAddressesWrap := by
  unfold Obligations.EffectiveAddressesWrap
  intro b w s
  refine ⟨ea_of_effAddr (sub_one_eq_ofNat _), ea_of_effAddr (zext16_eq_ofNat b),
    ea_of_effAddr (zext16_add_eq_ofNat b _), ea_of_effAddr (zext16_add_eq_ofNat b _), rfl,
    ea_of_effAddr (add_zext16_eq_ofNat w _), ea_of_effAddr (add_zext16_eq_ofNat w _),
    ea_of_effAddr (effAddr_indx_eq_ofNat b s), ea_of_effAddr (effAddr_indy_eq_ofNat b s),
    fun f hf => ?_, fun f hf => ?_⟩
  · fin_cases hf <;> rfl
  · fin_cases hf <;> rfl

/-! ## JMP -/

/-- Settles O29: the target is the operand word or the word it points at, and each byte of the pointer can fault. -/
theorem jmpReplacesPc : Obligations.JmpReplacesPc := by
  unfold Obligations.JmpReplacesPc
  exact ⟨fun w => ⟨rfl, rfl⟩, fun w s => ⟨rfl, execJmp_ind_eq, execJmp_ind_low_not_accessible,
    execJmp_ind_high_not_accessible⟩⟩

/-! ## Instructions without an operand -/

/-- Settles O18: each effect is the copy of one register. -/
theorem transfersCopyRegisters : Obligations.TransfersCopyRegisters := by
  unfold Obligations.TransfersCopyRegisters
  refine ⟨?_, fun s => ?_⟩
  · and_intros <;> rfl
  · exact ⟨exec_eq trivial, exec_eq trivial, exec_eq trivial, exec_eq trivial, exec_eq trivial, exec_eq trivial⟩

/-- Settles O23: each effect is one register counted up or down. -/
theorem indexRegistersCount : Obligations.IndexRegistersCount := by
  unfold Obligations.IndexRegistersCount
  refine ⟨?_, fun s => ?_⟩
  · and_intros <;> rfl
  · exact ⟨exec_eq trivial, exec_eq trivial, exec_eq trivial, exec_eq trivial⟩

/-- Settles O33: each effect is one flag set or cleared, NOP's none. -/
theorem flagInstructionsSetOneFlag : Obligations.FlagInstructionsSetOneFlag := by
  unfold Obligations.FlagInstructionsSetOneFlag
  refine ⟨?_, fun s => ?_⟩
  · and_intros <;> rfl
  · exact ⟨exec_eq trivial, exec_eq trivial, exec_eq trivial, exec_eq trivial, exec_eq trivial, exec_eq trivial⟩

/-- Settles O34: CLD and SED have the empty effect; the undefined bytes stand in the map at their own entries, without
operand bytes. -/
theorem decimalAndUndefinedOpcodesHaveNoEffect : Obligations.DecimalAndUndefinedOpcodesHaveNoEffect := by
  unfold Obligations.DecimalAndUndefinedOpcodesHaveNoEffect
  refine ⟨⟨rfl, rfl⟩, fun op hop => ?_, fun s => ⟨exec_eq trivial, exec_eq trivial, fun op => exec_eq trivial⟩⟩
  have hentry := decodeInstr_undefined op hop
  have hcount : operandBytesOf op = 0 := by rw [operandBytesOf, hentry]; rfl
  rw [decode_none hcount, hentry]

/-! ## The cycle table -/

/-- Settles O45: the first part is the table read at the opcode byte; the default table is read entry by entry. -/
theorem baseCyclesAreTheTable : Obligations.BaseCyclesAreTheTable := by
  unfold Obligations.BaseCyclesAreTheTable
  constructor
  · intro p i op rest h
    obtain ⟨hlow, hhigh⟩ := cycleCount_range p op
    exact ⟨baseCycles_of_encode h, hlow, hhigh⟩
  · intro b w
    refine ⟨fun f hf => ?reads, ?ldx, ?ldy, fun f hf => ?indexCompares, ?bit, ?sta, ?stx, ?sty, fun f hf => ?counts,
      fun f hf => ?shifts, fun f hf => ?branches, ?jumps, fun i hi => ?implied, ?stack⟩
    case reads | indexCompares | counts | shifts => fin_cases hf <;> and_intros <;> rfl
    case branches => fin_cases hf <;> rfl
    case implied => fin_cases hi <;> rfl
    all_goals and_intros <;> rfl

/-! ## Reset -/

/-- Settles O1: the default cartridge has PRG banks, so `init()` reads the blank vector; the table is construction's
own. -/
theorem resetTableAndBringUp : Obligations.ResetTableAndBringUp := by
  unfold Obligations.ResetTableAndBringUp
  constructor
  · rw [boot, init_prg_memory (by decide)]
    rfl
  · intro p k
    and_intros <;> rfl

end Sys2Proof.Machine
